-- ==== Sys2Proof/Word.lean ====
section
/-! DEFINITION. The word types of the core: register bytes, 16-bit words, 12-bit addresses and 4-bit indices
(spec/00_scope.md R6, R11, R13). Plain abbreviations of BitVec; all values are unsigned. -/

namespace Sys2Proof

/-- A general register, a timer, or one byte of memory (R6: XLEN = 8, TLEN = 8). -/
abbrev Byte := BitVec 8

/-- The index register, the program counter, a stack slot, or an opcode (R6: ILEN = PCLEN = 16). -/
abbrev Word := BitVec 16

/-- The operand `addr`, "a 12-bit address" (R13). -/
abbrev Addr := BitVec 12

/-- The operands `x` and `y`, a key number, or the count `n`: four bits (R13). -/
abbrev Nibble := BitVec 4

end Sys2Proof
end

