-- ==== Sys2Proof/Config.lean ====
section
/-! DEFINITION. The sizes the spec fixes (spec/00_scope.md R6) and the one free value of the model: the random byte
(R7, 42_alu.md R182). The other named parameter, FONT, is in Machine/Font.lean. -/

namespace Sys2Proof.Config

/-- R6 MEM_SIZE: bytes of memory, addresses 0x000 to 0xFFF. -/
abbrev memSize : Nat := 4096

/-- R6 FONT_BASE: address of the first byte of the glyph table. -/
abbrev fontBase : Nat := 0x000

/-- R6 FONT_BYTES: 16 glyphs of 5 bytes. -/
abbrev fontBytes : Nat := 80

/-- R6 PROG_BASE: load address of a program image. -/
abbrev progBase : Nat := 0x200

/-- R6 MAX_IMAGE: the greatest image length in bytes. -/
abbrev maxImage : Nat := 3584

/-- The random bytes a run consumes: `rnd n` is the input `rnd` of the Step that makes the n-th draw (10_state.md R46).
DESIGN CHOICE (log 1): a free value. It has no body, so nothing can be proved about its values, and a statement that
mentions it holds for every sequence of random bytes. UNSAFE only for a claim that compares two runs (log 1). -/
opaque rnd : Nat → Byte

end Sys2Proof.Config
end

