-- ==== Sys2Proof/Machine/Font.lean ====
section
/-! DEFINITION. The parameter FONT (spec/00_scope.md R7, 10_state.md R36, R37): the glyph table that Reset copies to 0x000. -/

namespace Sys2Proof.Machine

/-- Glyphs 0 to 7 of the default FONT (R37). PRESUMED, log 2. -/
def fontLow : List Byte :=
  [0xF0, 0x90, 0x90, 0x90, 0xF0,
   0x20, 0x60, 0x20, 0x20, 0x70,
   0xF0, 0x10, 0xF0, 0x80, 0xF0,
   0xF0, 0x10, 0xF0, 0x10, 0xF0,
   0x90, 0x90, 0xF0, 0x10, 0x10,
   0xF0, 0x80, 0xF0, 0x10, 0xF0,
   0xF0, 0x80, 0xF0, 0x90, 0xF0,
   0xF0, 0x10, 0x20, 0x40, 0x40]

/-- Glyphs 8 to F of the default FONT (R37). PRESUMED, log 2. -/
def fontHigh : List Byte :=
  [0xF0, 0x90, 0xF0, 0x90, 0xF0,
   0xF0, 0x90, 0xF0, 0x10, 0xF0,
   0xF0, 0x90, 0xF0, 0x90, 0x90,
   0xE0, 0x90, 0xE0, 0x90, 0xE0,
   0xF0, 0x80, 0x80, 0x80, 0xF0,
   0xE0, 0x90, 0x90, 0x90, 0xE0,
   0xF0, 0x80, 0xF0, 0x80, 0xF0,
   0xF0, 0x80, 0xF0, 0x80, 0x80]

/-- FONT: 80 bytes, 16 glyphs of 5, digit 0 first (R36). Instantiated with the spec's default, which R37 allows; the spec
marks its bytes as from general knowledge. UNSAFE for a claim about the shape of a displayed digit (log 2). -/
def font : List Byte := fontLow ++ fontHigh

end Sys2Proof.Machine
end

