-- ==== Sys2Proof/Machine/State.lean ====
section
/-! DEFINITION. The state of the core (spec/10_state.md R20 to R43, INVENTORY.md section State), the reasons a step can stop,
and the state after Reset (R48, 70_reset_and_hazards.md R300). Plain data. -/

namespace Sys2Proof.Machine

/-- The values of the register FAULT (R40). The core's own fatal faults are values of this register, entered by a NEXT
state (60_exceptions.md R272): they are not the host's `fault` outcome. -/
inductive FaultCode where
  /-- 0, no fault. -/
  | none
  /-- 1, raised by CALL with SP = 15. -/
  | stackOverflow
  /-- 2, raised by RET with SP = 0. -/
  | stackUnderflow
  /-- 3, raised by a fetch, DRW, LD B, LD [I] or LD Vx,[I] outside 0x000 to 0xFFF. -/
  | memRange
  deriving DecidableEq, Repr

/-- The host's `fault` outcome. It has no constructor: nothing in the spec makes a Step undefined, since each of the
three fatal faults has an entry the spec describes (R272) and so is a next state. No step can raise one (log 3; safe). -/
inductive Fault where
  deriving DecidableEq, Repr

/-- Reasons to refuse. No instruction and no step raises one; only moves of the host that the spec leaves no move for do. -/
inductive Refusal where
  /-- An instruction without a meaning. Raised by nothing: every instruction has its meaning. Safe. -/
  | notModelled (mnemonic : String)
  /-- Raised by LoadImage with more than 3584 bytes (46_host_operations.md R256, log 8). Safe: the spec has no move here. -/
  | imageTooLong
  /-- Raised by a host move before the first Reset (R258, log 8). Safe: the spec has no move here. -/
  | beforeReset
  /-- Raised by LoadImage after the first Step, or by a second one, since the last Reset (R256, R258, log 8). Safe. -/
  | lateLoad
  deriving DecidableEq, Repr

/-- MEM (R33): the bytes that differ from the reset contents, as (address, byte) pairs with addresses strictly rising.
What an unlisted address reads as is `Memory.initial`; the canonical form is `Memory.wf` (Machine/Memory.lean). -/
abbrev Memory := List Host.Cell

/-- FB (R34): 32 rows of 64 one-bit pixels, row 0 first, column 0 first; `true` is set. -/
abbrev Framebuffer := Vector (Vector Bool 64) 32

/-- The whole architectural state. -/
structure State where
  /-- V0 to VF (R20); V[15] is the flag register (R21). -/
  v : Vector Byte 16
  /-- The index register I (R24). -/
  i : Word
  /-- The program counter (R25). -/
  pc : Word
  /-- The stack pointer SP; 0 is empty (R30). -/
  sp : Nibble
  /-- STACK, 16 slots of which slot 0 is never used (R29, R30). -/
  stack : Vector Word 16
  /-- The delay timer DT (R31). -/
  dt : Byte
  /-- The sound timer ST (R32). -/
  st : Byte
  /-- MEM (R33). -/
  mem : Memory
  /-- FB (R34). -/
  fb : Framebuffer
  /-- KEYS (R35); `true` is pressed. -/
  keys : Vector Bool 16
  /-- WAIT (R38): `some x` while LD Vx, K waits for a key. -/
  wait : Option Nibble
  /-- KEY_EVENT (R39): the latched key press. -/
  keyEvent : Option Nibble
  /-- FAULT (R40). -/
  fault : FaultCode
  /-- The model's own field, not the spec's (log 1): how many random bytes have been drawn; it indexes `Config.rnd`. -/
  draws : Nat
  deriving DecidableEq, Repr

/-- The state after Reset (R48, R300): the pc at 0x200, everything else zero, none or empty, memory as Reset fills it
(nothing listed). `draws` is the model's own (DESIGN CHOICE, log 1). -/
def State.reset : State where
  v := Vector.replicate 16 0
  i := 0
  pc := 0x200
  sp := 0
  stack := Vector.replicate 16 0
  dt := 0
  st := 0
  mem := []
  fb := Vector.replicate 32 (Vector.replicate 64 false)
  keys := Vector.replicate 16 false
  wait := none
  keyEvent := none
  fault := .none
  draws := 0

end Sys2Proof.Machine
end

