-- ==== Sys2Proof/Machine/Memory.lean ====
section
/-! DEFINITION. MEM as a canonical list of cells (spec/10_state.md R33, R48; 20_memory.md R61, R62, R71): what an unlisted
address reads as, the canonical form, reading and writing bytes and runs of bytes. No range check here: Ops.lean makes it. -/

namespace Sys2Proof.Machine

/-- What an unlisted address reads as: the reset contents (R48, R62), FONT at 0x000 to 0x04F and 0 above. -/
def Memory.initial (a : Nat) : Byte :=
  if Config.fontBase ≤ a ∧ a < Config.fontBase + Config.fontBytes then font.getD (a - Config.fontBase) 0 else 0

/-- The canonical form from address `lo` on: addresses strictly rising, inside memory, and no entry equal to the
reset contents. -/
def Memory.wfFrom (lo : Nat) : Memory → Bool
  | [] => true
  | (a, b) :: m => decide (lo ≤ a) && decide (a < Config.memSize) && (b != Memory.initial a) && Memory.wfFrom (a + 1) m

/-- The canonical form of a whole memory. -/
def Memory.wf (m : Memory) : Bool := Memory.wfFrom 0 m

/-- The byte at an address (R71): the listed one, or the reset contents. -/
def Memory.read : Memory → Nat → Byte
  | [], a => Memory.initial a
  | (k, c) :: m, a => if a = k then c else if a < k then Memory.initial a else Memory.read m a

/-- The entry for a byte: none if the byte is what an unlisted address reads as. -/
def Memory.cell (a : Nat) (b : Byte) : Memory := if b = Memory.initial a then [] else [(a, b)]

/-- Write one byte, keeping the canonical form. -/
def Memory.write : Memory → Nat → Byte → Memory
  | [], a, b => Memory.cell a b
  | (k, c) :: m, a, b =>
    if k < a then (k, c) :: Memory.write m a b
    else Memory.cell a b ++ ((k, c) :: m).dropWhile (fun e => decide (e.1 ≤ a))

/-- Write a run of bytes, the first at the lowest address (R65). -/
def Memory.writeBytes (m : Memory) (a : Nat) : List Byte → Memory
  | [] => m
  | b :: bs => Memory.writeBytes (Memory.write m a b) (a + 1) bs

/-- Read a run of `n` bytes, the first at the lowest address (R65). -/
def Memory.readBytes (m : Memory) (a : Nat) : Nat → List Byte
  | 0 => []
  | n + 1 => Memory.read m a :: Memory.readBytes m (a + 1) n

end Sys2Proof.Machine
end

