-- ==== Sys2Proof/Machine/Ops.lean ====
section
/-! DEFINITION. The named operations over registers, the program counter, the stack, memory with its range check, the display
and the keys, and the one way a fault is taken (spec/00_scope.md R12, 60_exceptions.md R272). -/

namespace Sys2Proof.Machine

/-! ### Plain updates, one per field -/

/-- `V[x] <- b` (R12, R20). No register is hard-wired. -/
def State.writeV (s : State) (x : Nibble) (b : Byte) : State := { s with v := s.v.set x.toNat b }
/-- All general registers at once. -/
def State.setV (s : State) (v : Vector Byte 16) : State := { s with v := v }
/-- `I <- w`. -/
def State.setI (s : State) (w : Word) : State := { s with i := w }
/-- `pc <- w`. -/
def State.setPc (s : State) (w : Word) : State := { s with pc := w }
/-- `SP <- p`. -/
def State.setSp (s : State) (p : Nibble) : State := { s with sp := p }
/-- `STACK[j] <- w`. -/
def State.writeStack (s : State) (j : Nibble) (w : Word) : State := { s with stack := s.stack.set j.toNat w }
/-- `DT <- b`. -/
def State.setDt (s : State) (b : Byte) : State := { s with dt := b }
/-- `ST <- b`. -/
def State.setSt (s : State) (b : Byte) : State := { s with st := b }
/-- A new memory. -/
def State.setMem (s : State) (m : Memory) : State := { s with mem := m }
/-- A new framebuffer. -/
def State.setFb (s : State) (fb : Framebuffer) : State := { s with fb := fb }
/-- `KEYS[k] <- b`. -/
def State.writeKey (s : State) (k : Nibble) (b : Bool) : State := { s with keys := s.keys.set k.toNat b }
/-- `WAIT <- w`. -/
def State.setWait (s : State) (w : Option Nibble) : State := { s with wait := w }
/-- `KEY_EVENT <- e`. -/
def State.setKeyEvent (s : State) (e : Option Nibble) : State := { s with keyEvent := e }
/-- `FAULT <- f`. -/
def State.setFault (s : State) (f : FaultCode) : State := { s with fault := f }
/-- The model's counter of random draws (log 1). -/
def State.setDraws (s : State) (n : Nat) : State := { s with draws := n }

/-! ### Reads -/

/-- `V[x]`. -/
def State.readV (s : State) (x : Nibble) : Byte := s.v[x.toNat]
/-- `STACK[j]`. -/
def State.readStack (s : State) (j : Nibble) : Word := s.stack[j.toNat]
/-- `KEYS[k]`. -/
def State.readKey (s : State) (k : Nibble) : Bool := s.keys[k.toNat]

/-! ### The program counter (10_state.md R26): all sums are 16-bit -/

/-- Fall through: `pc <- pc + 2`. -/
def State.advance (s : State) : State := s.setPc (s.pc + 2)

/-- A conditional skip: `pc <- pc + 4` if the condition holds, else `pc <- pc + 2` (41_control_flow.md R147). -/
def State.skipIf (s : State) (c : Bool) : State := s.setPc (if c then s.pc + 4 else s.pc + 2)

/-! ### Taking a fault (60_exceptions.md R272) -/

/-- `raise F`: record the code and end the operation with no other state change. No pc or status is saved, no mode changes and
control goes nowhere; the core is halted from then on (R121). There is no return from it: only Reset clears FAULT (R275). The
fault is a NEXT state (log 3). -/
def raise (f : FaultCode) (s : State) : Host.Outcome State Fault Refusal := .next (s.setFault f)

/-! ### The stack (10_state.md R30) -/

/-- Increment SP, then write `STACK[SP]`. -/
def State.push (s : State) (w : Word) : State := (s.setSp (s.sp + 1)).writeStack (s.sp + 1) w

/-! ### Memory with its range check (R12 MemRead, MemWrite; 20_memory.md R67, R68) -/

/-- `len` bytes from `addr` lie inside memory: no check for `len = 0`, otherwise `addr + len - 1 <= 0xFFF` in unbounded
integers (R67; the spec's decisions D18, D21, log 15). -/
def inMemory (addr len : Nat) : Bool := decide (len = 0 ∨ addr + len - 1 ≤ 0xFFF)

/-- `MemRead`: the bytes, lowest address first, or `none` where it raises MemRange. The whole range is checked first. -/
def State.memRead (s : State) (addr n : Nat) : Option (List Byte) :=
  if inMemory addr n then some (Memory.readBytes s.mem addr n) else none

/-- `MemWrite`: the state with the bytes stored, lowest address first, or `none` where it raises MemRange. The whole range
is checked before any byte is written (R68). -/
def State.memWrite (s : State) (addr : Nat) (bs : List Byte) : Option State :=
  if inMemory addr bs.length then some (s.setMem (Memory.writeBytes s.mem addr bs)) else none

/-! ### The display (10_state.md R34): both axes wrap modulo their dimension -/

/-- The pixel at row `r` and column `c`, each reduced modulo its dimension. -/
def Framebuffer.pixel (fb : Framebuffer) (r c : Nat) : Bool :=
  (fb[r % 32]'(Nat.mod_lt _ (by decide)))[c % 64]'(Nat.mod_lt _ (by decide))

/-- Set one pixel, the coordinates reduced modulo their dimensions. -/
def Framebuffer.setPixel (fb : Framebuffer) (r c : Nat) (b : Bool) : Framebuffer :=
  fb.set (r % 32) ((fb[r % 32]'(Nat.mod_lt _ (by decide))).set (c % 64) b (Nat.mod_lt _ (by decide))) (Nat.mod_lt _ (by decide))

/-- All 2048 pixels unset. -/
def Framebuffer.blank : Framebuffer := Vector.replicate 32 (Vector.replicate 64 false)

end Sys2Proof.Machine
end

