-- ==== Sys2Proof/Machine/Flags.lean ====
section
/-! DEFINITION. The flag computations (spec/10_state.md R21, R42; 42_alu.md R159, R171 to R180) and the one way a data result
and a flag are written. -/

namespace Sys2Proof.Machine

/-- A flag as the byte VF receives: exactly 0 or 1 (R21). -/
def flagByte (f : Bool) : Byte := if f then 1 else 0

/-- Carry out of an 8-bit add, from the true sum (R172). -/
def carryOut (a b : Byte) : Bool := decide (a.toNat + b.toNat > 255)

/-- The flag of `a - b`: strictly greater, so 0 when equal (R174, R178). -/
def strictlyGreater (a b : Byte) : Bool := decide (a.toNat > b.toNat)

/-- The bit a right shift drops (R176). -/
def lowBit (a : Byte) : Bool := a.getLsbD 0

/-- The bit a left shift drops (R180). -/
def highBit (a : Byte) : Bool := a.getLsbD 7

/-- `V[x]` receives the data result, then `V[15]` the flag; with `x = 15` the flag wins (R22, R171; the spec's decision D11,
log 12). -/
def State.writeResultFlag (s : State) (x : Nibble) (result : Byte) (flag : Bool) : State :=
  (s.writeV x result).writeV 15 (flagByte flag)

end Sys2Proof.Machine
end

