-- ==== Sys2Proof/Machine/Alu.lean ====
section
/-! DEFINITION. The register, arithmetic and logic instructions (spec/42_alu.md R159 to R184). None can fault. -/

namespace Sys2Proof.Machine

/-- LD Vx, byte (R160). -/
def execLdVxByte (x : Nibble) (b : Byte) (s : State) : Host.Outcome State Fault Refusal :=
  .next (s.writeV x b).advance

/-- ADD Vx, byte (R162): modulo 256, no flag. -/
def execAddVxByte (x : Nibble) (b : Byte) (s : State) : Host.Outcome State Fault Refusal :=
  .next (s.writeV x (s.readV x + b)).advance

/-- LD Vx, Vy (R164). -/
def execLdVxVy (x y : Nibble) (s : State) : Host.Outcome State Fault Refusal :=
  .next (s.writeV x (s.readV y)).advance

/-- OR Vx, Vy (R166). -/
def execOrVxVy (x y : Nibble) (s : State) : Host.Outcome State Fault Refusal :=
  .next (s.writeV x (s.readV x ||| s.readV y)).advance

/-- AND Vx, Vy (R168). -/
def execAndVxVy (x y : Nibble) (s : State) : Host.Outcome State Fault Refusal :=
  .next (s.writeV x (s.readV x &&& s.readV y)).advance

/-- XOR Vx, Vy (R170). -/
def execXorVxVy (x y : Nibble) (s : State) : Host.Outcome State Fault Refusal :=
  .next (s.writeV x (s.readV x ^^^ s.readV y)).advance

/-- ADD Vx, Vy (R172): VF is the carry of the true sum. -/
def execAddVxVy (x y : Nibble) (s : State) : Host.Outcome State Fault Refusal :=
  let a := s.readV x
  let b := s.readV y
  .next (s.writeResultFlag x (a + b) (carryOut a b)).advance

/-- SUB Vx, Vy (R174): VF is 1 exactly when Vx > Vy. -/
def execSubVxVy (x y : Nibble) (s : State) : Host.Outcome State Fault Refusal :=
  let a := s.readV x
  let b := s.readV y
  .next (s.writeResultFlag x (a - b) (strictlyGreater a b)).advance

/-- SHR Vx (R176): Vx itself is shifted; VF is the bit shifted out. -/
def execShrVx (x : Nibble) (s : State) : Host.Outcome State Fault Refusal :=
  let a := s.readV x
  .next (s.writeResultFlag x (a >>> 1) (lowBit a)).advance

/-- SUBN Vx, Vy (R178): VF is 1 exactly when Vy > Vx. -/
def execSubnVxVy (x y : Nibble) (s : State) : Host.Outcome State Fault Refusal :=
  let a := s.readV x
  let b := s.readV y
  .next (s.writeResultFlag x (b - a) (strictlyGreater b a)).advance

/-- SHL Vx (R180): Vx itself is shifted; VF is the bit shifted out. -/
def execShlVx (x : Nibble) (s : State) : Host.Outcome State Fault Refusal :=
  let a := s.readV x
  .next (s.writeResultFlag x (a <<< 1) (highBit a)).advance

/-- RND with the Step's input `rnd` given (R182). -/
def rndResult (rnd : Byte) (x : Nibble) (b : Byte) (s : State) : State := (s.writeV x (rnd &&& b)).advance

/-- RND Vx, byte (R182): the input `rnd` is the next free value, which this instruction alone consumes (R46; log 1). -/
def execRndVxByte (x : Nibble) (b : Byte) (s : State) : Host.Outcome State Fault Refusal :=
  .next ((rndResult (Config.rnd s.draws) x b s).setDraws (s.draws + 1))

end Sys2Proof.Machine
end

