-- ==== Sys2Proof/Machine/Operands.lean ====
section
/-! DEFINITION. Every operand form of the spec beyond a plain register or immediate (spec/30_encoding.md R93, 43_index_memory.md
R189): address immediates, the indexed target, digit and key selectors, the glyph address, decimal digits, register blocks. -/

namespace Sys2Proof.Machine

/-- `zext_16(addr)` (R93). -/
def zextAddr (addr : Addr) : Word := addr.setWidth 16

/-- `zext_16(b)`. -/
def zextByte (b : Byte) : Word := b.setWidth 16

/-- The target of `JP V0, addr`: a 16-bit sum, not reduced to 12 bits (41_control_flow.md R156). -/
def indexedTarget (s : State) (addr : Addr) : Word := zextAddr addr + zextByte (s.readV 0)

/-- `V[x][3:0]` as a digit or a key number (R79, R194, R229; the spec's decisions D12, D13, log 13). -/
def lowNibble (b : Byte) : Nibble := b.extractLsb' 0 4

/-- The address of the glyph of a digit: `FONT_BASE + 5 * d` (R194). -/
def glyphAddr (d : Nibble) : Word := BitVec.ofNat 16 (Config.fontBase + 5 * d.toNat)

/-- Hundreds, tens and ones of a value 0 to 255, one digit a byte (R196). -/
def bcdDigits (b : Byte) : List Byte :=
  [BitVec.ofNat 8 (b.toNat / 100), BitVec.ofNat 8 (b.toNat / 10 % 10), BitVec.ofNat 8 (b.toNat % 10)]

/-- The register block `V[0] .. V[x]`, `x + 1` bytes (R198). -/
def regBlock (s : State) (x : Nibble) : List Byte := s.v.toList.take (x.toNat + 1)

/-- The general registers after `V[0] .. V[x]` take the given bytes in order (R200); registers above `x` keep theirs. -/
def loadBlock (s : State) (x : Nibble) (bytes : List Byte) : Vector Byte 16 :=
  Vector.ofFn fun j => if j.val ≤ x.toNat then bytes.getD j.val 0 else s.v[j]

end Sys2Proof.Machine
end

