-- ==== Sys2Proof/Machine/ControlFlow.lean ====
section
/-! DEFINITION. The control-flow instructions (spec/41_control_flow.md R140 to R158). -/

namespace Sys2Proof.Machine

/-- RET (R140): the pc from the top of the stack, SP down by one; StackUnderflow when SP = 0. The slot keeps its value. -/
def execRet (s : State) : Host.Outcome State Fault Refusal :=
  if s.sp = 0 then raise .stackUnderflow s
  else .next ((s.setPc (s.readStack s.sp)).setSp (s.sp - 1))

/-- SYS addr (R142): a jump on this hardware. -/
def execSys (addr : Addr) (s : State) : Host.Outcome State Fault Refusal := .next (s.setPc (zextAddr addr))

/-- JP addr (R144). -/
def execJp (addr : Addr) (s : State) : Host.Outcome State Fault Refusal := .next (s.setPc (zextAddr addr))

/-- CALL addr (R146): push the address after the CALL, then jump; StackOverflow when SP = 15. -/
def execCall (addr : Addr) (s : State) : Host.Outcome State Fault Refusal :=
  if s.sp = 15 then raise .stackOverflow s
  else .next ((s.push (s.pc + 2)).setPc (zextAddr addr))

/-- SE Vx, byte (R148). -/
def execSeVxByte (x : Nibble) (b : Byte) (s : State) : Host.Outcome State Fault Refusal :=
  .next (s.skipIf (s.readV x == b))

/-- SNE Vx, byte (R150). -/
def execSneVxByte (x : Nibble) (b : Byte) (s : State) : Host.Outcome State Fault Refusal :=
  .next (s.skipIf (s.readV x != b))

/-- SE Vx, Vy (R152). -/
def execSeVxVy (x y : Nibble) (s : State) : Host.Outcome State Fault Refusal :=
  .next (s.skipIf (s.readV x == s.readV y))

/-- SNE Vx, Vy (R154). -/
def execSneVxVy (x y : Nibble) (s : State) : Host.Outcome State Fault Refusal :=
  .next (s.skipIf (s.readV x != s.readV y))

/-- JP V0, addr (R156). -/
def execJpV0Addr (addr : Addr) (s : State) : Host.Outcome State Fault Refusal :=
  .next (s.setPc (indexedTarget s addr))

end Sys2Proof.Machine
end

