-- ==== Sys2Proof/Machine/Display.lean ====
section
/-! DEFINITION. The display compositing engine (spec/44_display.md R209 to R222): CLS and DRW. -/

namespace Sys2Proof.Machine

/-- What a blit works on: the framebuffer and the collision flag so far (R209). -/
structure Canvas where
  fb : Framebuffer
  hit : Bool
  deriving DecidableEq, Repr

/-- XOR one sprite bit onto one pixel; a pixel that goes from set to unset is a collision (R212, R218). -/
def plotBit (cv : Canvas) (r c : Nat) (bit : Bool) : Canvas :=
  let old := cv.fb.pixel r c
  ⟨cv.fb.setPixel r c (old ^^ bit), cv.hit || (old && bit)⟩

/-- One sprite byte at row `r`, leftmost column `vx`, most significant bit first; every pixel wraps on its own (R214). -/
def plotRow (cv : Canvas) (vx r : Nat) (byte : Byte) : Canvas :=
  (List.range 8).foldl (fun cv c => plotBit cv r (vx + c) (byte.getLsbD (7 - c))) cv

/-- The sprite's bytes from row `r` on, one row each (R212). -/
def plotSprite (cv : Canvas) (vx r : Nat) : List Byte → Canvas
  | [] => cv
  | byte :: rest => plotSprite (plotRow cv vx r byte) vx (r + 1) rest

/-- CLS (R210): every pixel 0. VF is not touched. -/
def execCls (s : State) : Host.Outcome State Fault Refusal := .next (s.setFb Framebuffer.blank).advance

/-- DRW Vx, Vy, nibble (R212): the range check first, operands read before VF is written, VF always written. -/
def execDrwVxVyN (x y n : Nibble) (s : State) : Host.Outcome State Fault Refusal :=
  match s.memRead s.i.toNat n.toNat with
  | none => raise .memRange s
  | some sprite =>
    let cv := plotSprite ⟨s.fb, false⟩ (s.readV x).toNat (s.readV y).toNat sprite
    .next ((s.setFb cv.fb).writeV 15 (flagByte cv.hit)).advance

end Sys2Proof.Machine
end

