-- ==== Sys2Proof/Machine/IndexMemory.lean ====
section
/-! DEFINITION. The index-register and memory instructions (spec/43_index_memory.md R189 to R202). The accesses leave I as it was. -/

namespace Sys2Proof.Machine

/-- LD I, addr (R190). -/
def execLdIAddr (addr : Addr) (s : State) : Host.Outcome State Fault Refusal := .next (s.setI (zextAddr addr)).advance

/-- ADD I, Vx (R192): modulo 65536, no flag. -/
def execAddIVx (x : Nibble) (s : State) : Host.Outcome State Fault Refusal :=
  .next (s.setI (s.i + zextByte (s.readV x))).advance

/-- LD F, Vx (R194): the glyph address of the digit in the low nibble of Vx. -/
def execLdFVx (x : Nibble) (s : State) : Host.Outcome State Fault Refusal :=
  .next (s.setI (glyphAddr (lowNibble (s.readV x)))).advance

/-- LD B, Vx (R196): three decimal digits at I, I + 1, I + 2. -/
def execLdBVx (x : Nibble) (s : State) : Host.Outcome State Fault Refusal :=
  match s.memWrite s.i.toNat (bcdDigits (s.readV x)) with
  | none => raise .memRange s
  | some t => .next t.advance

/-- LD [I], Vx (R198): V0 to Vx to I .. I + x. -/
def execLdMemVx (x : Nibble) (s : State) : Host.Outcome State Fault Refusal :=
  match s.memWrite s.i.toNat (regBlock s x) with
  | none => raise .memRange s
  | some t => .next t.advance

/-- LD Vx, [I] (R200): I .. I + x to V0 to Vx. -/
def execLdVxMem (x : Nibble) (s : State) : Host.Outcome State Fault Refusal :=
  match s.memRead s.i.toNat (x.toNat + 1) with
  | none => raise .memRange s
  | some bytes => .next (s.setV (loadBlock s x bytes)).advance

end Sys2Proof.Machine
end

