-- ==== Sys2Proof/Machine/KeypadTimers.lean ====
section
/-! DEFINITION. The keypad and timer instructions (spec/45_keypad_timers.md R229 to R240), the key wait and its completion. -/

namespace Sys2Proof.Machine

/-- SKP Vx (R230): the key is the low nibble of Vx (R229). -/
def execSkpVx (x : Nibble) (s : State) : Host.Outcome State Fault Refusal :=
  .next (s.skipIf (s.readKey (lowNibble (s.readV x))))

/-- SKNP Vx (R232). -/
def execSknpVx (x : Nibble) (s : State) : Host.Outcome State Fault Refusal :=
  .next (s.skipIf (!s.readKey (lowNibble (s.readV x))))

/-- LD Vx, DT (R234). -/
def execLdVxDt (x : Nibble) (s : State) : Host.Outcome State Fault Refusal := .next (s.writeV x s.dt).advance

/-- LD Vx, K, entry (R236): the wait begins, the pc stays at the instruction, an older press is forgotten. -/
def execLdVxK (x : Nibble) (s : State) : Host.Outcome State Fault Refusal :=
  .next ((s.setWait (some x)).setKeyEvent none)

/-- A Step while WAIT = some x (R122, R237): with a latched press it completes the LD Vx, K and does nothing else; without one
it changes nothing. -/
def waitingStep (x : Nibble) (s : State) : Host.Outcome State Fault Refusal :=
  match s.keyEvent with
  | some k => .next (((s.writeV x (k.setWidth 8)).advance.setWait none).setKeyEvent none)
  | none => .next s

/-- LD DT, Vx (R238). -/
def execLdDtVx (x : Nibble) (s : State) : Host.Outcome State Fault Refusal := .next (s.setDt (s.readV x)).advance

/-- LD ST, Vx (R240). -/
def execLdStVx (x : Nibble) (s : State) : Host.Outcome State Fault Refusal := .next (s.setSt (s.readV x)).advance

end Sys2Proof.Machine
end

