-- ==== Sys2Proof/Machine/Unknown.lean ====
section
/-! DEFINITION. The unknown opcode (spec/40_step_and_decode.md R130): a one-word no-op. -/

namespace Sys2Proof.Machine

/-- UNKNOWN(op) (R130): only the pc advances, whatever the word. The diagnostic event is an output, `stepDiag` in
Machine/Outputs.lean (R276, log 4). -/
def execUnknown (_op : Word) (s : State) : Host.Outcome State Fault Refusal := .next s.advance

end Sys2Proof.Machine
end

