-- ==== Sys2Proof/Syntax.lean ====
section
/-! DEFINITION. The instructions: one constructor per row of spec/opcode_table.json, in precedence order, with exactly the
fields of the row's format (spec/30_encoding.md R91, R96, R104). Bits the decoder ignores (R98) are no fields. -/

namespace Sys2Proof

/-- A decoded instruction (R104): the tag and the fields of its format, or the whole word for `UNKNOWN`. -/
inductive Instr where
  /-- `CLS`, 00E0. -/
  | cls
  /-- `RET`, 00EE. -/
  | ret
  /-- `SYS addr`, 0nnn: a jump on this hardware (R142). -/
  | sys (addr : Addr)
  /-- `JP addr`, 1nnn. -/
  | jp (addr : Addr)
  /-- `CALL addr`, 2nnn. -/
  | call (addr : Addr)
  /-- `SE Vx, byte`, 3xkk. -/
  | seVxByte (x : Nibble) (b : Byte)
  /-- `SNE Vx, byte`, 4xkk. -/
  | sneVxByte (x : Nibble) (b : Byte)
  /-- `SE Vx, Vy`, 5xy_. -/
  | seVxVy (x y : Nibble)
  /-- `LD Vx, byte`, 6xkk. -/
  | ldVxByte (x : Nibble) (b : Byte)
  /-- `ADD Vx, byte`, 7xkk. -/
  | addVxByte (x : Nibble) (b : Byte)
  /-- `SNE Vx, Vy`, 9xy_. -/
  | sneVxVy (x y : Nibble)
  /-- `LD I, addr`, Annn. -/
  | ldIAddr (addr : Addr)
  /-- `JP V0, addr`, Bnnn. -/
  | jpV0Addr (addr : Addr)
  /-- `RND Vx, byte`, Cxkk. -/
  | rndVxByte (x : Nibble) (b : Byte)
  /-- `DRW Vx, Vy, nibble`, Dxyn. -/
  | drwVxVyN (x y n : Nibble)
  /-- `LD Vx, Vy`, 8xy0. -/
  | ldVxVy (x y : Nibble)
  /-- `OR Vx, Vy`, 8xy1. -/
  | orVxVy (x y : Nibble)
  /-- `AND Vx, Vy`, 8xy2. -/
  | andVxVy (x y : Nibble)
  /-- `XOR Vx, Vy`, 8xy3. -/
  | xorVxVy (x y : Nibble)
  /-- `ADD Vx, Vy`, 8xy4. -/
  | addVxVy (x y : Nibble)
  /-- `SUB Vx, Vy`, 8xy5. -/
  | subVxVy (x y : Nibble)
  /-- `SHR Vx`, 8x_6. -/
  | shrVx (x : Nibble)
  /-- `SUBN Vx, Vy`, 8xy7. -/
  | subnVxVy (x y : Nibble)
  /-- `SHL Vx`, 8x_E. -/
  | shlVx (x : Nibble)
  /-- `SKP Vx`, Ex_E. -/
  | skpVx (x : Nibble)
  /-- `SKNP Vx`, Ex_1. -/
  | sknpVx (x : Nibble)
  /-- `LD Vx, DT`, Fx07. -/
  | ldVxDt (x : Nibble)
  /-- `LD Vx, K`, Fx0A: the blocking key wait. -/
  | ldVxK (x : Nibble)
  /-- `LD DT, Vx`, Fx15. -/
  | ldDtVx (x : Nibble)
  /-- `LD ST, Vx`, Fx18. -/
  | ldStVx (x : Nibble)
  /-- `ADD I, Vx`, Fx1E. -/
  | addIVx (x : Nibble)
  /-- `LD F, Vx`, Fx29. -/
  | ldFVx (x : Nibble)
  /-- `LD B, Vx`, Fx33. -/
  | ldBVx (x : Nibble)
  /-- `LD [I], Vx`, Fx55: block store. -/
  | ldMemVx (x : Nibble)
  /-- `LD Vx, [I]`, Fx65: block load. -/
  | ldVxMem (x : Nibble)
  /-- `UNKNOWN`: any other word, carried whole (R94, R100). -/
  | unknown (op : Word)
  deriving DecidableEq, Repr

end Sys2Proof
end

