-- ==== Sys2Proof/WellFormed.lean ====
section
/-! DEFINITION. Which terms of Instr a word can decode to (spec/30_encoding.md R97, R100, R104): every field value is
legal, but for `SYS` with the addresses of `CLS` and `RET`, and `UNKNOWN` with a word that some row matches. -/

namespace Sys2Proof

/-- The words of R100: those that no row of the opcode map matches, written from R100's own list of them and not from
the decode table. -/
def isUnknownWord (op : Word) : Bool :=
  let top := op.extractLsb' 12 4
  let low := op.extractLsb' 0 4
  let lowByte := op.extractLsb' 0 8
  (top == 0x8 && [0x8, 0x9, 0xA, 0xB, 0xC, 0xD, 0xF].contains low)
    || (top == 0xE && low != 0x1 && low != 0xE)
    || (top == 0xF && !([0x07, 0x0A, 0x15, 0x18, 0x1E, 0x29, 0x33, 0x55, 0x65].contains lowByte))

/-- A term that some word decodes to. The exception of R104: `SYS` with `addr` 0x0E0 or 0x0EE re-decodes as `CLS` or `RET`. -/
def Instr.wellFormed : Instr → Bool
  | .sys addr => addr != 0x0E0 && addr != 0x0EE
  | .unknown op => isUnknownWord op
  | _ => true

end Sys2Proof
end

