-- ==== Sys2Proof/Decode.lean ====
section
/-! DEFINITION. The decoder (spec/30_encoding.md R90 to R101, 40_step_and_decode.md R124), total on any bytes, and after it
the encoder (R104) and the host's decodeTableWord. Words are written literally from the opcode map, R96. -/

namespace Sys2Proof

/-! ### Fields (R92) -/

/-- Field `x`, bits 11:8. -/
def opX (op : Word) : Nibble := op.extractLsb' 8 4
/-- Field `y`, bits 7:4. -/
def opY (op : Word) : Nibble := op.extractLsb' 4 4
/-- Field `n`, bits 3:0. -/
def opN (op : Word) : Nibble := op.extractLsb' 0 4
/-- Field `b` (`kk`), bits 7:0. -/
def opB (op : Word) : Byte := op.extractLsb' 0 8
/-- Field `addr` (`nnn`), bits 11:0. -/
def opAddr (op : Word) : Addr := op.extractLsb' 0 12

/-! ### The opcode map (R94 to R96) -/

/-- One row of the opcode map: it matches a word `op` when `op &&& mask = pattern`, and `build` takes the row's fields. -/
structure OpRow where
  mask : Word
  pattern : Word
  build : Word → Instr

/-- Rows 1 and 2: exact full-word matches. -/
def exactRows : List OpRow :=
  [⟨0xFFFF, 0x00E0, fun _ => .cls⟩,
   ⟨0xFFFF, 0x00EE, fun _ => .ret⟩]

/-- Rows 3 to 15: the top-nibble family. -/
def topNibbleRows : List OpRow :=
  [⟨0xF000, 0x0000, fun op => .sys (opAddr op)⟩,
   ⟨0xF000, 0x1000, fun op => .jp (opAddr op)⟩,
   ⟨0xF000, 0x2000, fun op => .call (opAddr op)⟩,
   ⟨0xF000, 0x3000, fun op => .seVxByte (opX op) (opB op)⟩,
   ⟨0xF000, 0x4000, fun op => .sneVxByte (opX op) (opB op)⟩,
   ⟨0xF000, 0x5000, fun op => .seVxVy (opX op) (opY op)⟩,
   ⟨0xF000, 0x6000, fun op => .ldVxByte (opX op) (opB op)⟩,
   ⟨0xF000, 0x7000, fun op => .addVxByte (opX op) (opB op)⟩,
   ⟨0xF000, 0x9000, fun op => .sneVxVy (opX op) (opY op)⟩,
   ⟨0xF000, 0xA000, fun op => .ldIAddr (opAddr op)⟩,
   ⟨0xF000, 0xB000, fun op => .jpV0Addr (opAddr op)⟩,
   ⟨0xF000, 0xC000, fun op => .rndVxByte (opX op) (opB op)⟩,
   ⟨0xF000, 0xD000, fun op => .drwVxVyN (opX op) (opY op) (opN op)⟩]

/-- Rows 16 to 24: the nibble-8 family. -/
def eightRows : List OpRow :=
  [⟨0xF00F, 0x8000, fun op => .ldVxVy (opX op) (opY op)⟩,
   ⟨0xF00F, 0x8001, fun op => .orVxVy (opX op) (opY op)⟩,
   ⟨0xF00F, 0x8002, fun op => .andVxVy (opX op) (opY op)⟩,
   ⟨0xF00F, 0x8003, fun op => .xorVxVy (opX op) (opY op)⟩,
   ⟨0xF00F, 0x8004, fun op => .addVxVy (opX op) (opY op)⟩,
   ⟨0xF00F, 0x8005, fun op => .subVxVy (opX op) (opY op)⟩,
   ⟨0xF00F, 0x8006, fun op => .shrVx (opX op)⟩,
   ⟨0xF00F, 0x8007, fun op => .subnVxVy (opX op) (opY op)⟩,
   ⟨0xF00F, 0x800E, fun op => .shlVx (opX op)⟩]

/-- Rows 25 and 26: the nibble-E family. Bits 7:4 are ignored (R98; the spec's decision D2, log 9). -/
def keyRows : List OpRow :=
  [⟨0xF00F, 0xE00E, fun op => .skpVx (opX op)⟩,
   ⟨0xF00F, 0xE001, fun op => .sknpVx (opX op)⟩]

/-- Rows 27 to 35: the nibble-F family. PRESUMED (R99, the spec's decision D3, log 10): all low bytes but 55 and 65. -/
def effRows : List OpRow :=
  [⟨0xF0FF, 0xF007, fun op => .ldVxDt (opX op)⟩,
   ⟨0xF0FF, 0xF00A, fun op => .ldVxK (opX op)⟩,
   ⟨0xF0FF, 0xF015, fun op => .ldDtVx (opX op)⟩,
   ⟨0xF0FF, 0xF018, fun op => .ldStVx (opX op)⟩,
   ⟨0xF0FF, 0xF01E, fun op => .addIVx (opX op)⟩,
   ⟨0xF0FF, 0xF029, fun op => .ldFVx (opX op)⟩,
   ⟨0xF0FF, 0xF033, fun op => .ldBVx (opX op)⟩,
   ⟨0xF0FF, 0xF055, fun op => .ldMemVx (opX op)⟩,
   ⟨0xF0FF, 0xF065, fun op => .ldVxMem (opX op)⟩]

/-- The whole opcode map in precedence order (R95, R96). -/
def opcodeMap : List OpRow := exactRows ++ topNibbleRows ++ eightRows ++ keyRows ++ effRows

/-- The first row of a map that matches, or the unknown sentinel (R94). -/
def decodeWith : List OpRow → Word → Instr
  | [], op => .unknown op
  | r :: rs, op => if op &&& r.mask = r.pattern then r.build op else decodeWith rs op

/-- `Decode` (R124): total, pure, one result for each of the 65536 words. -/
def decodeWord (op : Word) : Instr := decodeWith opcodeMap op

/-- The opcode of two bytes as they lie in memory: big-endian, the first byte is the high one (20_memory.md R64). -/
def wordOfBytes (hi lo : Byte) : Word := hi ++ lo

/-- The bytes of a word as memory holds them, the high byte at the lower address (20_memory.md R64). -/
def bytesOfWord (op : Word) : Byte × Byte := (op.extractLsb' 8 8, op.extractLsb' 0 8)

/-- Why a byte sequence holds no instruction: only because fewer than two bytes are left (R90). -/
inductive DecodeError where
  | truncated
  deriving DecidableEq, Repr

/-- Decode the first instruction of a byte sequence and give the bytes after it. -/
def decode : List Byte → Except DecodeError (Instr × List Byte)
  | hi :: lo :: rest => .ok (decodeWord (wordOfBytes hi lo), rest)
  | _ => .error .truncated

/-! ### The encoder (R104): the row's pattern with the fields placed as R92 says; ignored bits are those of the pattern -/

/-- `addr` at bits 11:0. -/
def placeAddr (addr : Addr) : Word := addr.setWidth 16
/-- `x` at bits 11:8. -/
def placeX (x : Nibble) : Word := x.setWidth 16 <<< 8
/-- `y` at bits 7:4. -/
def placeY (y : Nibble) : Word := y.setWidth 16 <<< 4
/-- `n` at bits 3:0. -/
def placeN (n : Nibble) : Word := n.setWidth 16
/-- `b` at bits 7:0. -/
def placeB (b : Byte) : Word := b.setWidth 16

/-- The word of an instruction: `encode(tag, fields) = match | fields` (R104). `UNKNOWN` is its own word. -/
def encode : Instr → Word
  | .cls => 0x00E0
  | .ret => 0x00EE
  | .sys addr => 0x0000 ||| placeAddr addr
  | .jp addr => 0x1000 ||| placeAddr addr
  | .call addr => 0x2000 ||| placeAddr addr
  | .seVxByte x b => 0x3000 ||| placeX x ||| placeB b
  | .sneVxByte x b => 0x4000 ||| placeX x ||| placeB b
  | .seVxVy x y => 0x5000 ||| placeX x ||| placeY y
  | .ldVxByte x b => 0x6000 ||| placeX x ||| placeB b
  | .addVxByte x b => 0x7000 ||| placeX x ||| placeB b
  | .sneVxVy x y => 0x9000 ||| placeX x ||| placeY y
  | .ldIAddr addr => 0xA000 ||| placeAddr addr
  | .jpV0Addr addr => 0xB000 ||| placeAddr addr
  | .rndVxByte x b => 0xC000 ||| placeX x ||| placeB b
  | .drwVxVyN x y n => 0xD000 ||| placeX x ||| placeY y ||| placeN n
  | .ldVxVy x y => 0x8000 ||| placeX x ||| placeY y
  | .orVxVy x y => 0x8001 ||| placeX x ||| placeY y
  | .andVxVy x y => 0x8002 ||| placeX x ||| placeY y
  | .xorVxVy x y => 0x8003 ||| placeX x ||| placeY y
  | .addVxVy x y => 0x8004 ||| placeX x ||| placeY y
  | .subVxVy x y => 0x8005 ||| placeX x ||| placeY y
  | .shrVx x => 0x8006 ||| placeX x
  | .subnVxVy x y => 0x8007 ||| placeX x ||| placeY y
  | .shlVx x => 0x800E ||| placeX x
  | .skpVx x => 0xE00E ||| placeX x
  | .sknpVx x => 0xE001 ||| placeX x
  | .ldVxDt x => 0xF007 ||| placeX x
  | .ldVxK x => 0xF00A ||| placeX x
  | .ldDtVx x => 0xF015 ||| placeX x
  | .ldStVx x => 0xF018 ||| placeX x
  | .addIVx x => 0xF01E ||| placeX x
  | .ldFVx x => 0xF029 ||| placeX x
  | .ldBVx x => 0xF033 ||| placeX x
  | .ldMemVx x => 0xF055 ||| placeX x
  | .ldVxMem x => 0xF065 ||| placeX x
  | .unknown op => op

/-- The bits of a word that carry its instruction (R98, R104): the row's mask together with its field bits. -/
def relevantBits : Instr → Word
  | .seVxVy _ _ => 0xFFF0
  | .sneVxVy _ _ => 0xFFF0
  | .shrVx _ => 0xFF0F
  | .shlVx _ => 0xFF0F
  | .skpVx _ => 0xFF0F
  | .sknpVx _ => 0xFF0F
  | _ => 0xFFFF

/-- The canonical spelling of an instruction (R98): as `encode`, but `Ex9E` and `ExA1` for the two key skips. -/
def canonicalWord : Instr → Word
  | .skpVx x => 0xE09E ||| placeX x
  | .sknpVx x => 0xE0A1 ||| placeX x
  | i => encode i

/-- The instruction of a word whose bits are numbered as spec/opcode_table.json numbers them: the low `nbits` bits of
`w`, every bit above them 0, laid out as two bytes, high byte first, and given to `decode`. -/
def decodeTableWord (nbits w : Nat) : Option Instr :=
  let bytes := bytesOfWord (BitVec.ofNat 16 (w % 2 ^ nbits))
  match decode [bytes.1, bytes.2] with
  | .ok (i, _) => some i
  | .error _ => none

end Sys2Proof
end

