-- ==== Sys2Proof/Machine/Fetch.lean ====
section
/-! DEFINITION. Fetching an instruction and the order of a Step's tests (spec/40_step_and_decode.md R120 to R123, 20_memory.md
R64, R66). -/

namespace Sys2Proof.Machine

/-- The word at the pc: `MEM[pc] ++ MEM[pc + 1]`, high byte first (R64), read from memory as it is now (R76). -/
def State.fetchWord (s : State) : Word := wordOfBytes (Memory.read s.mem s.pc.toNat) (Memory.read s.mem (s.pc.toNat + 1))

/-- Which of the four cases of R120 a Step takes. -/
inductive StepKind where
  /-- FAULT is not 0: nothing changes (R121). -/
  | halted
  /-- WAIT = some x: the key wait (R122). -/
  | waiting (x : Nibble)
  /-- pc > 0xFFE: MemRange (R66, R123). -/
  | fetchFault
  /-- Execute the fetched word (R123 to R126). -/
  | execute (op : Word)
  deriving DecidableEq, Repr

/-- The tests of R120, in its order; the first that applies is taken. -/
def stepKind (s : State) : StepKind :=
  if s.fault ≠ .none then .halted
  else match s.wait with
    | some x => .waiting x
    | none => if s.pc.toNat > 0xFFE then .fetchFault else .execute s.fetchWord

end Sys2Proof.Machine
end

