-- ==== Sys2Proof/Machine/Step.lean ====
section
/-! DEFINITION. Step, the only move of the core (spec/40_step_and_decode.md R120 to R129), and the host's withFetchWord. -/

namespace Sys2Proof.Machine

/-- One Step (R120, R129). Every case is a next state: a halted core changes nothing (R121), a waiting one completes the key wait
or changes nothing (R122), a bad fetch raises MemRange (R123), and otherwise the decoded instruction runs (R124, R125). The input
`rnd` is the free value that RND reads (log 1). -/
def step (s : State) : Host.Outcome State Fault Refusal :=
  match stepKind s with
  | .halted => .next s
  | .waiting x => waitingStep x s
  | .fetchFault => raise .memRange s
  | .execute op => exec (decodeWord op) s

/-- The state with the instruction `w` (numbered as spec/opcode_table.json numbers it, bits above `nbits` zero) stored where step
fetches next, and whatever would keep the next step from fetching taken away (log 6): FAULT and WAIT cleared, and a pc from which
no fetch is possible moved to 0x200. From reset only the two memory bytes change. -/
def State.withFetchWord (s : State) (nbits w : Nat) : State :=
  let op : Word := BitVec.ofNat 16 (w % 2 ^ nbits)
  let pc : Word := if s.pc.toNat > 0xFFE then 0x200 else s.pc
  let bytes := bytesOfWord op
  { s with
    pc := pc
    mem := Memory.writeBytes s.mem pc.toNat [bytes.1, bytes.2]
    wait := none
    fault := .none }

end Sys2Proof.Machine
end

