-- ==== Sys2Proof/Machine/Outputs.lean ====
section
/-! DEFINITION. The outputs of the core (spec/10_state.md R45; 46_host_operations.md R257; 60_exceptions.md R276): functions of
the state, and the diagnostic event of a Step as a function of the state before it. -/

namespace Sys2Proof.Machine

/-- `display`, what ReadDisplay returns (R257): FB; reading it changes nothing. -/
def readDisplay (s : State) : Framebuffer := s.fb

/-- `sound_active`: ST is not 0 (R32, R45). -/
def soundActive (s : State) : Bool := s.st != 0

/-- The numeric codes of FAULT (R40; the spec's decision D9, log 3). -/
def faultNumber : FaultCode → BitVec 2
  | .none => 0
  | .stackOverflow => 1
  | .stackUnderflow => 2
  | .memRange => 3

/-- `fault`: FAULT as its 2-bit code (R45). -/
def faultOutput (s : State) : BitVec 2 := faultNumber s.fault

/-- `awaiting_key`: WAIT is not none (R45). -/
def awaitingKey (s : State) : Bool := s.wait.isSome

/-- The event `Unknown(op, a)`: the word and the address it was fetched from (R276). -/
structure Diagnostic where
  op : Word
  addr : Word
  deriving DecidableEq, Repr

/-- `diag_unknown`: the event the Step taken from this state emits, if it executes an unknown word (R130, R276; log 4). -/
def stepDiag (s : State) : Option Diagnostic :=
  match stepKind s with
  | .execute op =>
    match decodeWord op with
    | .unknown w => some ⟨w, s.pc⟩
    | _ => none
  | _ => none

end Sys2Proof.Machine
end

