-- ==== Sys2Proof/Machine/HostOps.lean ====
section
/-! DEFINITION. The host's moves (spec/46_host_operations.md R250 to R257, 70_reset_and_hazards.md R300), each an atomic
operation on the state. Which of them the host has at a given moment (R258) is Machine/Session.lean. -/

namespace Sys2Proof.Machine

/-- One timer's decrement opportunity: down by one, staying at 0 (R250). -/
def tickDown (b : Byte) : Byte := if b = 0 then 0 else b - 1

/-- `Tick` (R250): both timers, whatever the state of the core (R251; the spec's decision D15, log 14). -/
def State.tick (s : State) : State := (s.setDt (tickDown s.dt)).setSt (tickDown s.st)

/-- `SetKey(k, b)` (R253): write the key, and latch a press that arrives during a key wait while the latch is empty. -/
def State.setKey (s : State) (k : Nibble) (b : Bool) : State :=
  if b && !s.readKey k && s.wait.isSome && s.keyEvent.isNone
  then (s.writeKey k b).setKeyEvent (some k)
  else s.writeKey k b

/-- `LoadImage(img)` (R255, R256): the bytes verbatim from 0x200 on; a longer image than 3584 bytes has no move. -/
def State.loadImage (s : State) (img : List Byte) : Host.Outcome State Fault Refusal :=
  if img.length ≤ Config.maxImage then .next (s.setMem (Memory.writeBytes s.mem Config.progBase img))
  else .refused .imageTooLong

/-- `Reset` (R300): every piece of state to its reset value. The model's counter of random draws goes on, so that the bytes
drawn after a Reset are fresh ones (log 1). -/
def State.doReset (s : State) : State := State.reset.setDraws s.draws

end Sys2Proof.Machine
end

