-- ==== Sys2Proof/Machine/Session.lean ====
section
/-! DEFINITION. The core and its host together (spec/00_scope.md R9, R10; 46_host_operations.md R258; 70_reset_and_hazards.md R302):
operations in one total order, and which moves the host has at each moment. A move the spec leaves none for is refused (log 8). -/

namespace Sys2Proof.Machine

/-- The operations that change state (R9). Reading the outputs changes nothing and is no operation here. -/
inductive Op where
  | reset
  | loadImage (img : List Byte)
  | step
  | tick
  | setKey (k : Nibble) (pressed : Bool)
  deriving DecidableEq, Repr

/-- Where the host stands in the protocol of R258. -/
inductive Phase where
  /-- Before the first Reset: only Reset. -/
  | off
  /-- After a Reset, no image loaded and no Step taken yet. -/
  | ready
  /-- After a LoadImage, no Step taken yet. -/
  | loaded
  /-- A Step has been taken since the last Reset. -/
  | running
  deriving DecidableEq, Repr

/-- A core under a host. In the phase `off` the core's state means nothing. -/
structure Session where
  phase : Phase
  core : State
  deriving DecidableEq, Repr

/-- Put a core that has an outcome back under its host, at the given phase. -/
def atPhase (p : Phase) : Host.Outcome State Fault Refusal → Host.Outcome Session Fault Refusal
  | .next s => .next ⟨p, s⟩
  | .fault r => .fault r
  | .refused r => .refused r

/-- One operation (R10, R258): Reset at any time; nothing else before it; LoadImage at most once and before the first Step; Step,
Tick and SetKey in any order and number after that. -/
def applyOp (op : Op) (z : Session) : Host.Outcome Session Fault Refusal :=
  match op, z.phase with
  | .reset, _ => .next ⟨.ready, z.core.doReset⟩
  | _, .off => .refused .beforeReset
  | .loadImage img, .ready => atPhase .loaded (z.core.loadImage img)
  | .loadImage _, _ => .refused .lateLoad
  | .step, _ => atPhase .running (step z.core)
  | .tick, p => .next ⟨p, z.core.tick⟩
  | .setKey k b, p => .next ⟨p, z.core.setKey k b⟩

/-- A run: operations one after another, stopping at the first the host has no move for. -/
def runOps : List Op → Session → Host.Outcome Session Fault Refusal
  | [], z => .next z
  | op :: ops, z =>
    match applyOp op z with
    | .next z' => runOps ops z'
    | .fault r => .fault r
    | .refused r => .refused r

end Sys2Proof.Machine
end

