-- ==== Sys2Proof/Safety.lean ====
section
/-! DEFINITION. The terms claims use: the invariants of reachable states (spec/10_state.md R49), what each instruction reads and
writes (R23, R24, R29, R34, R60, R63), and unfaulted runs. -/

namespace Sys2Proof.Machine

/-- The core has not faulted: a safe run is one in which every state says so. -/
def State.unfaulted (s : State) : Prop := s.fault = .none

/-- What R49 says of every reachable state, with the model's canonical memory form and the bound of every stack slot (R28) that the
bound of the pc rests on. -/
structure State.Inv (s : State) : Prop where
  /-- Memory is in its canonical form, inside 0x000 to 0xFFF. -/
  memWf : Memory.wf s.mem = true
  /-- `pc <= 0x10FE` (R28). -/
  pcBound : s.pc.toNat ≤ 0x10FE
  /-- `STACK[0] = 0`: slot 0 is never written (R30). -/
  slotZero : s.readStack 0 = 0
  /-- Every slot holds 0 or an address after a CALL, at most 0x1000 (R28). -/
  slotBound : ∀ j : Nibble, (s.readStack j).toNat ≤ 0x1000
  /-- `WAIT = none` implies `KEY_EVENT = none` (R39). -/
  latchEmpty : s.wait = none → s.keyEvent = none
  /-- While the core waits, the pc is at the `LD Vx, K` that the wait belongs to. -/
  waitsAt : ∀ x, s.wait = some x → s.pc.toNat ≤ 0xFFE ∧ decodeWord s.fetchWord = .ldVxK x

/-- The invariant of a core under its host: nothing before the first Reset; after it the core's own, and no key wait before the
first Step. -/
def Session.Inv (z : Session) : Prop :=
  z.phase ≠ .off → z.core.Inv ∧ (z.phase ≠ .running → z.core.wait = none)

/-- Run a list of instructions one after another, each by exec. -/
def execAll : List Instr → State → Host.Outcome State Fault Refusal
  | [], s => .next s
  | i :: is, s =>
    match exec i s with
    | .next t => execAll is t
    | .fault r => .fault r
    | .refused r => .refused r

/-- The general registers an instruction may write (the table of R23, last column); for `LD Vx, K` the register its completion
writes. -/
def writesReg : Instr → Nibble → Bool
  | .ldVxByte x _, k | .addVxByte x _, k | .ldVxVy x _, k | .orVxVy x _, k | .andVxVy x _, k | .xorVxVy x _, k
  | .rndVxByte x _, k | .ldVxDt x, k | .ldVxK x, k => k == x
  | .addVxVy x _, k | .subVxVy x _, k | .subnVxVy x _, k | .shrVx x, k | .shlVx x, k => k == x || k == 15
  | .drwVxVyN _ _ _, k => k == 15
  | .ldVxMem x, k => decide (k.toNat ≤ x.toNat)
  | _, _ => false

/-- The general registers an instruction may read (the table of R23, middle column). -/
def readsReg : Instr → Nibble → Bool
  | .seVxByte x _, k | .sneVxByte x _, k | .addVxByte x _, k | .shrVx x, k | .shlVx x, k | .skpVx x, k | .sknpVx x, k
  | .ldDtVx x, k | .ldStVx x, k | .addIVx x, k | .ldFVx x, k | .ldBVx x, k => k == x
  | .seVxVy x y, k | .sneVxVy x y, k | .orVxVy x y, k | .andVxVy x y, k | .xorVxVy x y, k | .addVxVy x y, k
  | .subVxVy x y, k | .subnVxVy x y, k | .drwVxVyN x y _, k => k == x || k == y
  | .ldVxVy _ y, k => k == y
  | .jpV0Addr _, k => k == 0
  | .ldMemVx x, k => decide (k.toNat ≤ x.toNat)
  | _, _ => false

/-- The instructions that write I (R24). -/
def writesIndex : Instr → Bool
  | .ldIAddr _ | .addIVx _ | .ldFVx _ => true
  | _ => false

/-- The instructions that write FB (R34). -/
def writesDisplay : Instr → Bool
  | .cls | .drwVxVyN _ _ _ => true
  | _ => false

/-- How many bytes an instruction stores, from I on (the write rows of R63). -/
def storeLen : Instr → Nat
  | .ldBVx _ => 3
  | .ldMemVx x => x.toNat + 1
  | _ => 0

/-- Whether address `a` is one of the bytes the instruction stores to. -/
def storesTo (i : Instr) (s : State) (a : Nat) : Prop := s.i.toNat ≤ a ∧ a < s.i.toNat + storeLen i

/-- The fault an instruction raises in a state, if any: the exact conditions of the table of 60_exceptions.md R270. -/
def faultOf (i : Instr) (s : State) : Option FaultCode :=
  match i with
  | .call _ => if s.sp = 15 then some .stackOverflow else none
  | .ret => if s.sp = 0 then some .stackUnderflow else none
  | .drwVxVyN _ _ n => if 1 ≤ n.toNat ∧ s.i.toNat + n.toNat - 1 > 0xFFF then some .memRange else none
  | .ldBVx _ => if s.i.toNat + 2 > 0xFFF then some .memRange else none
  | .ldMemVx x | .ldVxMem x => if s.i.toNat + x.toNat > 0xFFF then some .memRange else none
  | _ => none

/-- The pc after an instruction that does not fault, by the classes of R26: skip, jump, computed jump, return, key wait, and fall
through for every other one. Sums are 16-bit. -/
def pcAfter (i : Instr) (s : State) : Word :=
  match i with
  | .seVxByte x b => if s.readV x = b then s.pc + 4 else s.pc + 2
  | .sneVxByte x b => if s.readV x ≠ b then s.pc + 4 else s.pc + 2
  | .seVxVy x y => if s.readV x = s.readV y then s.pc + 4 else s.pc + 2
  | .sneVxVy x y => if s.readV x ≠ s.readV y then s.pc + 4 else s.pc + 2
  | .skpVx x => if s.readKey ((s.readV x).extractLsb' 0 4) = true then s.pc + 4 else s.pc + 2
  | .sknpVx x => if s.readKey ((s.readV x).extractLsb' 0 4) = false then s.pc + 4 else s.pc + 2
  | .sys addr | .jp addr | .call addr => addr.setWidth 16
  | .jpV0Addr addr => addr.setWidth 16 + (s.readV 0).setWidth 16
  | .ret => s.readStack s.sp
  | .ldVxK _ => s.pc
  | _ => s.pc + 2

/-- The sprite bit that a draw of `n` bytes at column `vx`, row `vy` puts on the pixel at row `r`, column `c` (R212, R214), each pixel
wrapping on its own: the byte `i` with `(vy + i) mod 32 = r`, its bit `7 - j` with `(vx + j) mod 64 = c`, and 0 if there is none. -/
def spriteBit (sprite : List Byte) (vx vy r c : Nat) : Bool :=
  let i := (r + 32 - vy % 32) % 32
  let j := (c + 64 - vx % 64) % 64
  decide (i < sprite.length) && decide (j < 8) && (sprite.getD i 0).getLsbD (7 - j)

end Sys2Proof.Machine
end

