-- ==== Sys2Proof/Certificates/Slice0/Obligations.lean ====
section
/-! DEFINITION. The statements for the provers, from the numbered rules of spec/. Titles, bases and cites are in OBLIGATIONS.json.
Where a clause is one of the spec's own decisions D<n> (spec/92_eei_decisions.md) its docstring says so. -/

open Sys2Proof Sys2Proof.Machine

/-! ### Encoding and decoding -/

/-- R104. For every instruction a word can stand for, the bytes of its encoding, followed by anything, decode to it and leave the
rest; `SYS` with the addresses of `CLS` and `RET` re-decodes as those; and re-encoding what any word decodes to gives the word's
relevant bits. -/
def Obligations.DecodeEncodeRoundTrip : Prop :=
  (∀ (i : Instr) (rest : List Byte), i.wellFormed = true →
      decode ((bytesOfWord (encode i)).1 :: (bytesOfWord (encode i)).2 :: rest) = .ok (i, rest))
  ∧ decodeWord (encode (.sys 0x0E0)) = .cls ∧ decodeWord (encode (.sys 0x0EE)) = .ret
  ∧ ∀ op : Word, encode (decodeWord op) = op &&& relevantBits (decodeWord op)

/-- Every row of the table of 30_encoding.md section 7 (R107): the row's example word decodes to the row's instruction with the fields the
example text shows. So no two rows can have changed places, in the decoder alone or in the decoder and the encoder. The low bytes of the
F family but 55 and 65 are the spec's decision D3 (log 10). Beside them, a word of the F family with a low byte outside the nine. -/
def Obligations.SpecWordsDecode : Prop :=
  (decodeWord 0x00E0 = .cls ∧ decodeWord 0x00EE = .ret ∧ decodeWord 0x0123 = .sys 0x123 ∧ decodeWord 0x1204 = .jp 0x204
    ∧ decodeWord 0x2300 = .call 0x300 ∧ decodeWord 0x3A05 = .seVxByte 0xA 0x05 ∧ decodeWord 0x4A05 = .sneVxByte 0xA 0x05
    ∧ decodeWord 0x5120 = .seVxVy 1 2 ∧ decodeWord 0x632A = .ldVxByte 3 0x2A ∧ decodeWord 0x7301 = .addVxByte 3 0x01)
  ∧ (decodeWord 0x8120 = .ldVxVy 1 2 ∧ decodeWord 0x8121 = .orVxVy 1 2 ∧ decodeWord 0x8122 = .andVxVy 1 2
    ∧ decodeWord 0x8123 = .xorVxVy 1 2 ∧ decodeWord 0x8AB4 = .addVxVy 0xA 0xB ∧ decodeWord 0x8125 = .subVxVy 1 2
    ∧ decodeWord 0x8106 = .shrVx 1 ∧ decodeWord 0x8127 = .subnVxVy 1 2 ∧ decodeWord 0x810E = .shlVx 1)
  ∧ (decodeWord 0x9120 = .sneVxVy 1 2 ∧ decodeWord 0xA300 = .ldIAddr 0x300 ∧ decodeWord 0xB300 = .jpV0Addr 0x300
    ∧ decodeWord 0xC10F = .rndVxByte 1 0x0F ∧ decodeWord 0xD014 = .drwVxVyN 0 1 4 ∧ decodeWord 0xE19E = .skpVx 1
    ∧ decodeWord 0xE1A1 = .sknpVx 1)
  ∧ (decodeWord 0xF107 = .ldVxDt 1 ∧ decodeWord 0xF10A = .ldVxK 1 ∧ decodeWord 0xF115 = .ldDtVx 1 ∧ decodeWord 0xF118 = .ldStVx 1
    ∧ decodeWord 0xF11E = .addIVx 1 ∧ decodeWord 0xF129 = .ldFVx 1 ∧ decodeWord 0xF133 = .ldBVx 1 ∧ decodeWord 0xF355 = .ldMemVx 3
    ∧ decodeWord 0xF365 = .ldVxMem 3)
  ∧ decodeWord 0x8128 = .unknown 0x8128 ∧ decodeWord 0xF075 = .unknown 0xF075

/-- Which words are unknown, by nibbles (the table of 30_encoding.md section 3), and that an unknown word is carried whole. The nine low bytes of the F family:
log 10. -/
def Obligations.UnknownWordsExactly : Prop :=
  ∀ op : Word,
    (decodeWord op = .unknown op ↔
      (op.toNat / 4096 = 8 ∧ op.toNat % 16 ∈ [8, 9, 10, 11, 12, 13, 15])
      ∨ (op.toNat / 4096 = 14 ∧ op.toNat % 16 ≠ 1 ∧ op.toNat % 16 ≠ 14)
      ∨ (op.toNat / 4096 = 15 ∧ op.toNat % 256 ∉ [0x07, 0x0A, 0x15, 0x18, 0x1E, 0x29, 0x33, 0x55, 0x65]))
    ∧ ∀ w, decodeWord op = .unknown w → w = op

/-- Every one of the 65536 words decodes to a term some word stands for. -/
def Obligations.DecodedIsWellFormed : Prop := ∀ op : Word, (decodeWord op).wellFormed = true

/-- The order of the opcode map matters for rows 1 and 2 against row 3 only: a word that matches two rows matches row 3 and one
of rows 1 and 2. The map has 35 rows. -/
def Obligations.OpcodeMapRowsDisjoint : Prop :=
  opcodeMap.length = 35
  ∧ ∀ (op : Word) (j k : Nat) (r q : OpRow), opcodeMap[j]? = some r → opcodeMap[k]? = some q → j < k →
      op &&& r.mask = r.pattern → op &&& q.mask = q.pattern → k = 2

/-! ### The Step -/

/-- R125. When FAULT is 0, WAIT is none and the pc is at most 0xFFE, and the two bytes at the pc decode to an instruction, a Step is
exec of that instruction at the same state; nothing is added around it. -/
def Obligations.StepRunsDecodedInstruction : Prop :=
  ∀ (s : State) (i : Instr), s.fault = .none → s.wait = none → s.pc.toNat ≤ 0xFFE →
    decode [Memory.read s.mem s.pc.toNat, Memory.read s.mem (s.pc.toNat + 1)] = .ok (i, []) →
    i.wellFormed = true ∧ step s = exec i s

/-- A halted core: any number of Steps changes nothing (the spec's decision D9, log 3). -/
def Obligations.HaltedStepChangesNothing : Prop :=
  ∀ (s : State) (n : Nat), s.fault ≠ .none → Host.Core.run core n s = .next s

/-- A Step during the key wait (the spec's decision D14, log 11): with a latched press it writes the key number, moves past the LD Vx, K and ends the
wait, and no more; without one it changes nothing. -/
def Obligations.WaitingStep : Prop :=
  ∀ (s : State) (x : Nibble), s.fault = .none → s.wait = some x →
    (s.keyEvent = none → step s = .next s)
    ∧ ∀ k, s.keyEvent = some k →
        step s = .next { s with v := s.v.set x.toNat (k.setWidth 8), pc := s.pc + 2, wait := none, keyEvent := none }

/-- A fetch outside memory raises MemRange and does nothing else (the spec's decisions D8, D9, log 3). -/
def Obligations.FetchOutsideMemoryFaults : Prop :=
  ∀ s : State, s.fault = .none → s.wait = none → s.pc.toNat > 0xFFE → step s = .next { s with fault := .memRange }

/-- Every instruction, and every Step, from every state answers a next state: none is refused, none is the host's fault. A fatal fault is a
next state as the spec's decisions D8 and D9 describe its entry (log 3). -/
def Obligations.EveryStepAnswersNext : Prop :=
  (∀ (i : Instr) (s : State), ∃ t, exec i s = .next t) ∧ ∀ s : State, ∃ t, step s = .next t

/-! ### Control flow -/

/-- R142, R144. SYS and JP set the pc to the address and change nothing else; SYS has every word of top nibble 0 but 00E0 and
00EE, JP every word of top nibble 1. -/
def Obligations.SysAndJumpSetPc : Prop :=
  (∀ op : Word, op &&& 0xF000#16 = 0x0000#16 → op ≠ 0x00E0#16 → op ≠ 0x00EE#16 → decodeWord op = .sys (op.extractLsb' 0 12))
  ∧ (∀ op : Word, op &&& 0xF000#16 = 0x1000#16 → decodeWord op = .jp (op.extractLsb' 0 12))
  ∧ ∀ (addr : Addr) (s : State),
      exec (.sys addr) s = .next { s with pc := BitVec.ofNat 16 addr.toNat }
      ∧ exec (.jp addr) s = .next { s with pc := BitVec.ofNat 16 addr.toNat }

/-- R148, R150, R152, R154. The four compare-and-skip instructions: their words (the low nibble of 5xy_ and 9xy_ ignored), and the
pc after them; nothing else changes. -/
def Obligations.CompareAndSkip : Prop :=
  (∀ op : Word, op &&& 0xF000#16 = 0x3000#16 → decodeWord op = .seVxByte (op.extractLsb' 8 4) (op.extractLsb' 0 8))
  ∧ (∀ op : Word, op &&& 0xF000#16 = 0x4000#16 → decodeWord op = .sneVxByte (op.extractLsb' 8 4) (op.extractLsb' 0 8))
  ∧ (∀ op : Word, op &&& 0xF000#16 = 0x5000#16 → decodeWord op = .seVxVy (op.extractLsb' 8 4) (op.extractLsb' 4 4))
  ∧ (∀ op : Word, op &&& 0xF000#16 = 0x9000#16 → decodeWord op = .sneVxVy (op.extractLsb' 8 4) (op.extractLsb' 4 4))
  ∧ ∀ (x y : Nibble) (b : Byte) (s : State),
      exec (.seVxByte x b) s = .next { s with pc := if s.v[x.toNat] = b then s.pc + 4 else s.pc + 2 }
      ∧ exec (.sneVxByte x b) s = .next { s with pc := if s.v[x.toNat] ≠ b then s.pc + 4 else s.pc + 2 }
      ∧ exec (.seVxVy x y) s = .next { s with pc := if s.v[x.toNat] = s.v[y.toNat] then s.pc + 4 else s.pc + 2 }
      ∧ exec (.sneVxVy x y) s = .next { s with pc := if s.v[x.toNat] ≠ s.v[y.toNat] then s.pc + 4 else s.pc + 2 }

/-- R156. JP V0, addr has a row of its own; the pc is the exact sum of the address and V0, which cannot overflow 16 bits and is at
most 0x10FE; nothing else changes. That it is not reduced to 12 bits is the spec's decision D6 (log 19). -/
def Obligations.IndexedJump : Prop :=
  (∀ op : Word, op &&& 0xF000#16 = 0xB000#16 → decodeWord op = .jpV0Addr (op.extractLsb' 0 12))
  ∧ ∀ (addr : Addr) (s : State), addr.toNat + s.v[0].toNat ≤ 0x10FE
      ∧ exec (.jpV0Addr addr) s = .next { s with pc := BitVec.ofNat 16 (addr.toNat + s.v[0].toNat) }

/-- CALL (41_control_flow.md; what the slot holds is the spec's decision D5, log 7, and the fault D8, D9, log 3): below depth 15 it pushes the address after itself into
the slot above SP and jumps; at depth 15 it only raises StackOverflow. -/
def Obligations.CallPushesReturnAddress : Prop :=
  ∀ (addr : Addr) (s : State),
    (∀ h : s.sp.toNat < 15, exec (.call addr) s
        = .next { s with sp := s.sp + 1, stack := s.stack.set (s.sp.toNat + 1) (s.pc + 2), pc := BitVec.ofNat 16 addr.toNat })
    ∧ (s.sp = 15 → exec (.call addr) s = .next { s with fault := .stackOverflow })

/-- RET (41_control_flow.md; the sentinel 0 is the spec's decision D5, log 7, and the fault D8, D9, log 3): with a pending call the pc comes from the slot at SP and SP goes down; with
none it only raises StackUnderflow. -/
def Obligations.ReturnPopsStack : Prop :=
  ∀ s : State,
    (s.sp ≠ 0 → exec .ret s = .next { s with pc := s.stack[s.sp.toNat], sp := s.sp - 1 })
    ∧ (s.sp = 0 → exec .ret s = .next { s with fault := .stackUnderflow })

/-- Nested calls followed by as many returns: if the depth allows all the calls, the pc ends at the address following the first call
site, SP is back, and nothing but the stack slots has changed (the stack discipline: the spec's decision D5, log 7). -/
def Obligations.NestedCallsAndReturnsBalance : Prop :=
  ∀ (addrs : List Addr) (s : State), addrs ≠ [] → s.sp.toNat + addrs.length ≤ 15 →
    ∃ stack', execAll (addrs.map Instr.call ++ List.replicate addrs.length Instr.ret) s
        = .next { s with pc := s.pc + 2, stack := stack' }
      ∧ ∀ j : Nibble, j.toNat ≤ s.sp.toNat → stack'[j.toNat] = s.stack[j.toNat]

/-! ### Registers, arithmetic, logic -/

/-- R160, R162. LD Vx, byte and ADD Vx, byte: their words, the register's new value (modulo 256), the pc two on; nothing else changes,
VF included unless it is Vx. -/
def Obligations.LoadAndAddImmediate : Prop :=
  (∀ op : Word, op &&& 0xF000#16 = 0x6000#16 → decodeWord op = .ldVxByte (op.extractLsb' 8 4) (op.extractLsb' 0 8))
  ∧ (∀ op : Word, op &&& 0xF000#16 = 0x7000#16 → decodeWord op = .addVxByte (op.extractLsb' 8 4) (op.extractLsb' 0 8))
  ∧ ∀ (x : Nibble) (b : Byte) (s : State),
      exec (.ldVxByte x b) s = .next { s with v := s.v.set x.toNat b, pc := s.pc + 2 }
      ∧ exec (.addVxByte x b) s
          = .next { s with v := s.v.set x.toNat (BitVec.ofNat 8 ((s.v[x.toNat].toNat + b.toNat) % 256)), pc := s.pc + 2 }

/-- R164, R166, R168, R170. LD Vx, Vy and the three logic operations: their words, the register's new value, the pc two on; nothing
else changes, VF included unless it is Vx. -/
def Obligations.CopyAndLogic : Prop :=
  (∀ op : Word, op &&& 0xF00F#16 = 0x8000#16 → decodeWord op = .ldVxVy (op.extractLsb' 8 4) (op.extractLsb' 4 4))
  ∧ (∀ op : Word, op &&& 0xF00F#16 = 0x8001#16 → decodeWord op = .orVxVy (op.extractLsb' 8 4) (op.extractLsb' 4 4))
  ∧ (∀ op : Word, op &&& 0xF00F#16 = 0x8002#16 → decodeWord op = .andVxVy (op.extractLsb' 8 4) (op.extractLsb' 4 4))
  ∧ (∀ op : Word, op &&& 0xF00F#16 = 0x8003#16 → decodeWord op = .xorVxVy (op.extractLsb' 8 4) (op.extractLsb' 4 4))
  ∧ ∀ (x y : Nibble) (s : State),
      exec (.ldVxVy x y) s = .next { s with v := s.v.set x.toNat s.v[y.toNat], pc := s.pc + 2 }
      ∧ exec (.orVxVy x y) s = .next { s with v := s.v.set x.toNat (s.v[x.toNat] ||| s.v[y.toNat]), pc := s.pc + 2 }
      ∧ exec (.andVxVy x y) s = .next { s with v := s.v.set x.toNat (s.v[x.toNat] &&& s.v[y.toNat]), pc := s.pc + 2 }
      ∧ exec (.xorVxVy x y) s = .next { s with v := s.v.set x.toNat (s.v[x.toNat] ^^^ s.v[y.toNat]), pc := s.pc + 2 }

/-- ADD, SUB and SUBN (42_alu.md section 4), in unbounded integers: the result modulo 256 goes to Vx, then the flag to VF, carry of the
true sum or strictly greater; the old VF is never added; nothing else changes. That with x = 15 the flag is what VF holds is the
spec's decision D11 (log 12). -/
def Obligations.AddSubSubnWithFlag : Prop :=
  ∀ (x y : Nibble) (s : State) (a b : Nat), s.v[x.toNat].toNat = a → s.v[y.toNat].toNat = b →
    exec (.addVxVy x y) s = .next { s with
      v := (s.v.set x.toNat (BitVec.ofNat 8 ((a + b) % 256))).set 15 (if a + b > 255 then 1 else 0), pc := s.pc + 2 }
    ∧ exec (.subVxVy x y) s = .next { s with
      v := (s.v.set x.toNat (BitVec.ofNat 8 (if a ≥ b then a - b else a + 256 - b))).set 15 (if a > b then 1 else 0), pc := s.pc + 2 }
    ∧ exec (.subnVxVy x y) s = .next { s with
      v := (s.v.set x.toNat (BitVec.ofNat 8 (if b ≥ a then b - a else b + 256 - a))).set 15 (if b > a then 1 else 0), pc := s.pc + 2 }

/-- SHR and SHL (42_alu.md section 4), in unbounded integers: Vx is halved or doubled modulo 256, then VF is the bit shifted out; nothing
else changes. That with x = 15 the flag is what VF holds is the spec's decision D11 (log 12). -/
def Obligations.ShiftsWithFlag : Prop :=
  ∀ (x : Nibble) (s : State) (a : Nat), s.v[x.toNat].toNat = a →
    exec (.shrVx x) s = .next { s with
      v := (s.v.set x.toNat (BitVec.ofNat 8 (a / 2))).set 15 (BitVec.ofNat 8 (a % 2)), pc := s.pc + 2 }
    ∧ exec (.shlVx x) s = .next { s with
      v := (s.v.set x.toNat (BitVec.ofNat 8 (a * 2 % 256))).set 15 (BitVec.ofNat 8 (a / 128)), pc := s.pc + 2 }

/-- The six flag writers leave VF at exactly 0 or 1 in every state, DRW where it does not fault (10_state.md section 1; that it holds with VF as the destination too is the
spec's decision D11, log 12; DRW's fault condition: D18, D21, log 15). -/
def Obligations.FlagIsZeroOrOne : Prop :=
  ∀ (i : Instr) (s t : State), (∃ x y n, i = .addVxVy x y ∨ i = .subVxVy x y ∨ i = .subnVxVy x y ∨ i = .shrVx x ∨ i = .shlVx x
      ∨ i = .drwVxVyN x y n) → faultOf i s = none → exec i s = .next t → t.v[15] = 0 ∨ t.v[15] = 1

/-- RND (42_alu.md section 5; the input is the spec's decision D16, and that it is read from Config.rnd is the model's choice, log 1): Vx is the Step's random
byte AND the immediate, so the bits outside the immediate are 0 and an immediate of 0 gives 0; one draw is consumed; nothing else
changes. It holds for every sequence of random bytes. -/
def Obligations.RandomAndImmediate : Prop :=
  ∀ (x : Nibble) (b : Byte) (s : State),
    exec (.rndVxByte x b) s = .next { s with v := s.v.set x.toNat (Config.rnd s.draws &&& b), pc := s.pc + 2, draws := s.draws + 1 }
    ∧ (Config.rnd s.draws &&& b) &&& ~~~b = 0

/-! ### Index register and memory -/

/-- R190. LD I, addr: its words, I zero-extended and at most 0xFFF, the pc two on; nothing else changes. -/
def Obligations.SetIndex : Prop :=
  (∀ op : Word, op &&& 0xF000#16 = 0xA000#16 → decodeWord op = .ldIAddr (op.extractLsb' 0 12))
  ∧ ∀ (addr : Addr) (s : State), addr.toNat ≤ 0xFFF
      ∧ exec (.ldIAddr addr) s = .next { s with i := BitVec.ofNat 16 addr.toNat, pc := s.pc + 2 }

/-- ADD I, Vx and LD F, Vx (43_index_memory.md section 2): I modulo 65536 with no flag, and the glyph address of the low nibble of Vx (the
spec's decision D12, log 13), at most 0x04B; the pc two on; nothing else changes. -/
def Obligations.AddIndexAndGlyphAddress : Prop :=
  ∀ (x : Nibble) (s : State),
    exec (.addIVx x) s = .next { s with i := BitVec.ofNat 16 ((s.i.toNat + s.v[x.toNat].toNat) % 65536), pc := s.pc + 2 }
    ∧ exec (.ldFVx x) s = .next { s with i := BitVec.ofNat 16 (5 * (s.v[x.toNat].toNat % 16)), pc := s.pc + 2 }
    ∧ 5 * (s.v[x.toNat].toNat % 16) ≤ 0x04B

/-- LD B, Vx (43_index_memory.md section 3) inside memory: three digits, hundreds first, whose decimal value is Vx, at I, I + 1, I + 2; every
other byte reads as before; everything but memory and the pc is unchanged, I included (the spec's decision D19, log 16). -/
def Obligations.StoreBcd : Prop :=
  ∀ (x : Nibble) (s : State), s.i.toNat ≤ 0xFFD →
    ∃ mem' : Memory, exec (.ldBVx x) s = .next { s with mem := mem', pc := s.pc + 2 }
      ∧ (∃ h t o : Nat, h ≤ 2 ∧ t ≤ 9 ∧ o ≤ 9 ∧ 100 * h + 10 * t + o = s.v[x.toNat].toNat
          ∧ Memory.read mem' s.i.toNat = BitVec.ofNat 8 h ∧ Memory.read mem' (s.i.toNat + 1) = BitVec.ofNat 8 t
          ∧ Memory.read mem' (s.i.toNat + 2) = BitVec.ofNat 8 o)
      ∧ ∀ a, (a < s.i.toNat ∨ s.i.toNat + 2 < a) → Memory.read mem' a = Memory.read s.mem a

/-- LD [I], Vx (43_index_memory.md section 3) inside memory: V[j] at I + j for every j from 0 to x; every other byte reads as before;
everything but memory and the pc is unchanged, I (the spec's decision D19, log 16) and the registers included. -/
def Obligations.BlockStore : Prop :=
  ∀ (x : Nibble) (s : State), s.i.toNat + x.toNat ≤ 0xFFF →
    ∃ mem' : Memory, exec (.ldMemVx x) s = .next { s with mem := mem', pc := s.pc + 2 }
      ∧ (∀ j : Nibble, j.toNat ≤ x.toNat → Memory.read mem' (s.i.toNat + j.toNat) = s.v[j.toNat])
      ∧ ∀ a, (a < s.i.toNat ∨ s.i.toNat + x.toNat < a) → Memory.read mem' a = Memory.read s.mem a

/-- LD Vx, [I] (43_index_memory.md section 4) inside memory: V[j] is the byte at I + j for every j from 0 to x; the registers above x keep
theirs; everything but the registers and the pc is unchanged, I (the spec's decision D19, log 16) and memory included. -/
def Obligations.BlockLoad : Prop :=
  ∀ (x : Nibble) (s : State), s.i.toNat + x.toNat ≤ 0xFFF →
    ∃ v' : Vector Byte 16, exec (.ldVxMem x) s = .next { s with v := v', pc := s.pc + 2 }
      ∧ ∀ j : Nibble, v'[j.toNat] = if j.toNat ≤ x.toNat then Memory.read s.mem (s.i.toNat + j.toNat) else s.v[j.toNat]

/-- After a block store inside memory (43_index_memory.md section 3), a block load of the same block (section 4), executed in any later state
with that memory and the I that the store left, restores the stored registers. The document's test loads 'from the same region'; that
the I the store left still addresses that region is the spec's decision D19, the store leaves I as it was (log 16). -/
def Obligations.BlockStoreLoadRoundTrip : Prop :=
  ∀ (x : Nibble) (s t u : State), s.i.toNat + x.toNat ≤ 0xFFF → exec (.ldMemVx x) s = .next t → u.mem = t.mem → u.i = t.i →
    ∃ w, exec (.ldVxMem x) u = .next w ∧ ∀ j : Nibble, j.toNat ≤ x.toNat → w.v[j.toNat] = s.v[j.toNat]

/-- Which instruction faults, when, and that a fault changes nothing but FAULT (60_exceptions.md section 1; the codes, the precision and the
range arithmetic are the spec's decisions D8, D9, D21, logs 3 and 15): every instruction in every state either raises exactly the
fault of the table, or leaves FAULT as it was. -/
def Obligations.FaultsExactlyAndPrecisely : Prop :=
  ∀ (i : Instr) (s t : State), exec i s = .next t →
    match faultOf i s with
    | some f => t = { s with fault := f }
    | none => t.fault = s.fault

/-- A Step that faults has changed nothing but FAULT, whatever it was doing (the spec's decisions D8, D9, log 3). -/
def Obligations.FaultingStepIsPrecise : Prop :=
  ∀ s t : State, step s = .next t → t.fault ≠ s.fault → s.fault = .none ∧ t = { s with fault := t.fault }

/-- A store is seen by the very next fetch (20_memory.md section 7): a block store over the next instruction's bytes makes the next Step
run the stored word. -/
def Obligations.StoreSeenByNextFetch : Prop :=
  ∀ (x : Nibble) (s t : State), s.fault = .none → s.wait = none → s.pc.toNat + 2 ≤ 0xFFE → 1 ≤ x.toNat →
    s.i = s.pc + 2 → s.i.toNat + x.toNat ≤ 0xFFF → exec (.ldMemVx x) s = .next t →
    step t = exec (decodeWord (s.v[0] ++ s.v[1] : BitVec 16)) t

/-- Equal contents are equal data: two canonical memories that read alike everywhere are the same list (the model's canonical form,
log 5). -/
def Obligations.CanonicalMemoryIsUnique : Prop :=
  ∀ m m' : Memory, Memory.wf m = true → Memory.wf m' = true → (∀ a, Memory.read m a = Memory.read m' a) → m = m'

/-! ### Display -/

/-- R210. CLS: its word, every pixel unset whatever was there, the pc two on; nothing else changes, VF included; doing it again leaves the
display as it is. -/
def Obligations.ClearDisplay : Prop :=
  decodeWord 0x00E0 = .cls
  ∧ ∀ s : State, ∃ fb' : Framebuffer, exec .cls s = .next { s with fb := fb', pc := s.pc + 2 }
      ∧ (∀ (r c : Nat) (hr : r < 32) (hc : c < 64), fb'[r][c] = false)
      ∧ ∀ u : State, u.fb = fb' → exec .cls u = .next { u with pc := u.pc + 2 }

/-- DRW (44_display.md section 3) where it does not fault: every pixel is its old value XOR the sprite's bit there, each pixel wrapping on
both axes; VF is 1 exactly when some pixel was set and its sprite bit too; the pc two on; nothing else changes, I included (the spec's decision D19, log 16). A draw of 0 rows needs
no range check (the spec's decision D18, log 15), and Vx, Vy are read before VF is written (D11, log 12). -/
def Obligations.DrawSprite : Prop :=
  ∀ (x y n : Nibble) (s : State), n = 0 ∨ s.i.toNat + n.toNat ≤ 0x1000 →
    ∃ fb' : Framebuffer,
      (∀ (r c : Nat) (hr : r < 32) (hc : c < 64),
        fb'[r][c] = (s.fb[r][c] ^^ spriteBit (Memory.readBytes s.mem s.i.toNat n.toNat) s.v[x.toNat].toNat s.v[y.toNat].toNat r c))
      ∧ ∀ hit : Bool,
        (hit = true ↔ ∃ r c, ∃ (hr : r < 32) (hc : c < 64), s.fb[r][c] = true
            ∧ spriteBit (Memory.readBytes s.mem s.i.toNat n.toNat) s.v[x.toNat].toNat s.v[y.toNat].toNat r c = true) →
        exec (.drwVxVyN x y n) s = .next { s with fb := fb', v := s.v.set 15 (if hit = true then 1 else 0), pc := s.pc + 2 }

/-- Drawing the same sprite twice at the same place restores the display; and from a blank display the second draw collides exactly when
the sprite has a set bit (44_display.md section 3). The general sentence of R218, that the second draw gives VF = 1 if the sprite has any
set bit, is stated here, and holds in general, from a blank display only: on a display lit under every set bit the first draw unsets
those pixels and the second sets them without a collision (log 20). A draw of 0 rows is the spec's decision D18 (log 15), and that I is kept from the first draw to the second is D19
(log 16). Coordinates that are VF itself are left to DrawSprite, since the first draw writes VF. -/
def Obligations.DrawTwiceRestores : Prop :=
  ∀ (x y n : Nibble) (s t u : State), n = 0 ∨ s.i.toNat + n.toNat ≤ 0x1000 → x ≠ 15 → y ≠ 15 →
    exec (.drwVxVyN x y n) s = .next t → exec (.drwVxVyN x y n) { t with pc := s.pc } = .next u →
    u.fb = s.fb ∧ (s.fb = Vector.replicate 32 (Vector.replicate 64 false) →
      (u.v[15] = 1 ↔ ∃ b ∈ Memory.readBytes s.mem s.i.toNat n.toNat, b ≠ 0))

/-! ### Keypad and timers -/

/-- SKP and SKNP (45_keypad_timers.md section 1): the key of the low nibble of Vx (the spec's decision D13, log 13); nothing but the pc
changes. -/
def Obligations.KeySkips : Prop :=
  ∀ (x k : Nibble) (s : State), k.toNat = s.v[x.toNat].toNat % 16 →
    exec (.skpVx x) s = .next { s with pc := if s.keys[k.toNat] = true then s.pc + 4 else s.pc + 2 }
    ∧ exec (.sknpVx x) s = .next { s with pc := if s.keys[k.toNat] = false then s.pc + 4 else s.pc + 2 }

/-- The timer copies (45_keypad_timers.md section 2): Vx = DT, DT = Vx, ST = Vx, the pc two on, nothing else. -/
def Obligations.TimerCopies : Prop :=
  ∀ (x : Nibble) (s : State),
    exec (.ldVxDt x) s = .next { s with v := s.v.set x.toNat s.dt, pc := s.pc + 2 }
    ∧ exec (.ldDtVx x) s = .next { s with dt := s.v[x.toNat], pc := s.pc + 2 }
    ∧ exec (.ldStVx x) s = .next { s with st := s.v[x.toNat], pc := s.pc + 2 }

/-- LD Vx, K enters the wait (45_keypad_timers.md section 3; the mechanism is the spec's decision D14, log 11): WAIT and KEY_EVENT change,
nothing else, and the pc stays. -/
def Obligations.KeyWaitEntry : Prop :=
  ∀ (x : Nibble) (s : State), exec (.ldVxK x) s = .next { s with wait := some x, keyEvent := none }

/-- The whole key wait (the spec's decision D14, log 11): after LD Vx, K has been executed, any number of Steps without a press changes nothing; a press of a
key that is up, at that point, is latched; the first press wins over a later one of another key; and the next Step stores the first
key's number in Vx, moves past the instruction and ends the wait. -/
def Obligations.KeyWaitProtocol : Prop :=
  ∀ (x k j : Nibble) (s w : State) (n : Nat), s.fault = .none → exec (.ldVxK x) s = .next w → s.keys[k.toNat] = false → j ≠ k →
    Host.Core.run core n w = .next w
    ∧ step ((w.setKey k true).setKey j true)
        = .next { s with v := s.v.set x.toNat (BitVec.ofNat 8 k.toNat), pc := s.pc + 2, wait := none, keyEvent := none
                         keys := (s.keys.set k.toNat true).set j.toNat true }

/-! ### The unknown opcode -/

/-- An unknown word (40_step_and_decode.md section 2): only the pc changes, by 2; and a Step emits the diagnostic event, with the word and
its address, exactly when it executes an unknown word (that the event is an output and no state is the spec's decision D10, log 4). -/
def Obligations.UnknownSkipsWithDiagnostic : Prop :=
  (∀ (op : Word) (s : State), exec (.unknown op) s = .next { s with pc := s.pc + 2 })
  ∧ ∀ (s : State) (d : Diagnostic), stepDiag s = some d ↔
      s.fault = .none ∧ s.wait = none ∧ s.pc.toNat ≤ 0xFFE ∧ decodeWord s.fetchWord = .unknown s.fetchWord
        ∧ d.op = s.fetchWord ∧ d.addr = s.pc

/-! ### Frames over all instructions -/

/-- Every instruction leaves every general register as it was but those the table of R23 says it writes. -/
def Obligations.RegisterFrame : Prop :=
  ∀ (i : Instr) (s t : State) (k : Nibble), exec i s = .next t → writesReg i k = false → t.v[k.toNat] = s.v[k.toNat]

/-- Every instruction leaves every byte of memory as it was but those it stores to: 3 from I for LD B, x + 1 from I for LD [I], Vx, none
for any other. -/
def Obligations.MemoryFrame : Prop :=
  ∀ (i : Instr) (s t : State) (a : Nat), exec i s = .next t → ¬ storesTo i s a → Memory.read t.mem a = Memory.read s.mem a

/-- Every instruction leaves I, FB, STACK, SP, DT, ST, WAIT and KEY_EVENT as they were but the ones the spec says write them, and none
writes KEYS. That DRW, LD B, LD [I] and LD Vx,[I] leave I as it was is the spec's decision D19 (log 16), and that LD Vx, K writes WAIT
and KEY_EVENT is D14 (log 11). The draw counter is the model's own field, no state of the spec: that RND alone changes it is the model's
choice (log 1). -/
def Obligations.OtherStateFrame : Prop :=
  ∀ (i : Instr) (s t : State), exec i s = .next t →
    t.keys = s.keys
    ∧ (writesIndex i = false → t.i = s.i)
    ∧ (writesDisplay i = false → t.fb = s.fb)
    ∧ ((∀ a, i ≠ .call a) → t.stack = s.stack)
    ∧ ((∀ a, i ≠ .call a) → i ≠ .ret → t.sp = s.sp)
    ∧ ((∀ x, i ≠ .ldDtVx x) → t.dt = s.dt)
    ∧ ((∀ x, i ≠ .ldStVx x) → t.st = s.st)
    ∧ ((∀ x, i ≠ .ldVxK x) → t.wait = s.wait ∧ t.keyEvent = s.keyEvent)
    ∧ ((∀ x b, i ≠ .rndVxByte x b) → t.draws = s.draws)

/-- The pc after every instruction, by the classes of R26: fall through, jump, computed jump, return, skip and key wait, each skip's
condition as its rule gives it (41_control_flow.md section 2, 45_keypad_timers.md section 1), and unchanged by an instruction that faults
(60_exceptions.md section 1). The key that SKP and SKNP test is that of the low nibble of Vx by the spec's decision D13 (log 13); that
LD Vx, K leaves the pc at itself is D14 (log 11); that RET takes the slot's value as it is is D5 (log 7); that a fault leaves the pc
is D8 and D9 (log 3), its range arithmetic, and that DRW of 0 rows never faults, are D21 and D18 (log 15); that no sum is reduced to 12
bits is D6 (log 19). -/
def Obligations.PcSequencing : Prop :=
  ∀ (i : Instr) (s t : State), exec i s = .next t → t.pc = if faultOf i s = none then pcAfter i s else s.pc

/-- An instruction reads no general register but those the table of R23 says: executed with the same random byte (the spec's decision
D16; the two executions draw the same byte because they start with the same draw counter, the model's choice, log 1), changing any
other register before it changes nothing after it but that register, which keeps the changed value unless the instruction writes it. So
no instruction reads VF implicitly. -/
def Obligations.ReadsOnlyItsRegisters : Prop :=
  ∀ (i : Instr) (k : Nibble) (b : Byte) (s t : State), readsReg i k = false → exec i s = .next t →
    exec i { s with v := s.v.set k.toNat b } = .next t
    ∨ exec i { s with v := s.v.set k.toNat b } = .next { t with v := t.v.set k.toNat b }
      ∧ (writesReg i k = false ∨ faultOf i s ≠ none ∨ ∃ x, i = .ldVxK x)

/-- A Step never writes KEYS and never counts a timer down: it changes DT or ST only by running LD DT, Vx or LD ST, Vx. -/
def Obligations.StepLeavesKeysAndTimers : Prop :=
  ∀ s t : State, step s = .next t →
    t.keys = s.keys
    ∧ (t.dt ≠ s.dt → ∃ x, decodeWord s.fetchWord = .ldDtVx x ∧ t.dt = s.v[x.toNat])
    ∧ (t.st ≠ s.st → ∃ x, decodeWord s.fetchWord = .ldStVx x ∧ t.st = s.v[x.toNat])

/-! ### Reset, the host's moves, invariants -/

/-- The state after Reset, field by field (10_state.md section 10), the font at 0x000 and zero above it; and the operation Reset gives
exactly it from every state, but for the model's own counter of random draws, which goes on (log 1). The font's bytes are the
parameter FONT, whatever they are (log 2). Reset as an operation is the spec's decision D23 (log 17). -/
def Obligations.ResetState : Prop :=
  (∀ j : Nibble, State.reset.v[j.toNat] = 0 ∧ State.reset.stack[j.toNat] = 0 ∧ State.reset.keys[j.toNat] = false)
  ∧ State.reset.i = 0 ∧ State.reset.pc = 0x200 ∧ State.reset.sp = 0 ∧ State.reset.dt = 0 ∧ State.reset.st = 0
  ∧ (∀ (r c : Nat) (hr : r < 32) (hc : c < 64), State.reset.fb[r][c] = false)
  ∧ font.length = 80 ∧ (∀ a (h : a < font.length), Memory.read State.reset.mem a = font[a])
  ∧ (∀ a, 80 ≤ a → Memory.read State.reset.mem a = 0)
  ∧ State.reset.wait = none ∧ State.reset.keyEvent = none ∧ State.reset.fault = .none
  ∧ ∀ s : State, s.doReset = { State.reset with draws := s.draws }

/-- R250. Tick counts both timers down by one, each staying at 0, and changes nothing else; so after n Ticks each has lost n or is 0. -/
def Obligations.TickCountsDown : Prop :=
  (∀ s : State, s.tick = { s with
      dt := if s.dt ≠ 0 then s.dt - 1 else s.dt
      st := if s.st ≠ 0 then s.st - 1 else s.st })
  ∧ ∀ (s : State) (n : Nat), (State.tick^[n] s).dt.toNat = s.dt.toNat - n ∧ (State.tick^[n] s).st.toNat = s.st.toNat - n

/-- SetKey (46_host_operations.md section 2; the latch is the spec's decision D14, log 11): the key takes its state; a press that is a transition, during a wait, with an empty latch, is
latched; nothing else changes. -/
def Obligations.SetKeyLatchesFirstPress : Prop :=
  ∀ (s : State) (k : Nibble) (b : Bool), s.setKey k b = { s with
    keys := s.keys.set k.toNat b
    keyEvent := if b = true ∧ s.keys[k.toNat] = false ∧ s.wait ≠ none ∧ s.keyEvent = none then some k else s.keyEvent }

/-- LoadImage (46_host_operations.md section 3): the image's bytes verbatim from 0x200 on, every other byte and everything else as before;
an image over 3584 bytes has no move (the spec's decision D22, log 8). -/
def Obligations.LoadImageVerbatim : Prop :=
  ∀ (s : State) (img : List Byte),
    (img.length ≤ 3584 → ∃ mem' : Memory, s.loadImage img = .next { s with mem := mem' }
      ∧ (∀ j (h : j < img.length), Memory.read mem' (0x200 + j) = img[j])
      ∧ ∀ a, (a < 0x200 ∨ 0x200 + img.length ≤ a) → Memory.read mem' a = Memory.read s.mem a)
    ∧ (3584 < img.length → s.loadImage img = .refused .imageTooLong)

/-- The reset state meets the invariant. -/
def Obligations.ResetMeetsInvariant : Prop := State.reset.Inv

/-- Every Step, from every state that meets the invariant (R49's, with the memory's canonical form), gives one that meets it. What
it says of the slots rests on the spec's decision D5 (log 7), of WAIT and KEY_EVENT on D14 (log 11), of the pc's bound on D6 (log 19), and
the canonical form is the model's own (log 5). -/
def Obligations.StepKeepsInvariant : Prop := ∀ s t : State, s.Inv → step s = .next t → t.Inv

/-- Every sequence of the host's moves and Steps the spec has a move for, from any core before its first Reset on or from any session that
meets the session invariant, ends in one that meets it: every reachable state is as R49 says. The host's moves are the
spec's decisions D22 (log 8) and D23 (log 17); the invariant's own are named at StepKeepsInvariant (logs 5, 7, 11, 19). -/
def Obligations.EveryRunKeepsInvariant : Prop :=
  (∀ s : State, Session.Inv ⟨.off, s⟩)
  ∧ ∀ (ops : List Op) (z z' : Session), z.Inv → runOps ops z = .next z' → z'.Inv

/-- A fault stays until Reset (the spec's decision D9, log 3): whatever the host does but Reset, a faulted core keeps FAULT and every other
piece of state but KEYS, DT, ST and KEY_EVENT. That Tick acts after a fault too is D15 (log 14), and the latch KEY_EVENT is D14 (log 11). -/
def Obligations.FaultStaysUntilReset : Prop :=
  ∀ (ops : List Op) (z z' : Session), z.phase = .running → z.core.fault ≠ .none → Op.reset ∉ ops → runOps ops z = .next z' →
    z'.phase = .running ∧ z'.core = { z.core with
      keys := z'.core.keys, dt := z'.core.dt, st := z'.core.st, keyEvent := z'.core.keyEvent }

/-- The host's protocol (46_host_operations.md section 5; log 8) and what each operation does to the core: before the first Reset there
is no move but Reset; Reset, always there, is `doReset`; after it an image loads once, before the first Step, and that is `loadImage`,
an image over 3584 bytes having no move (D22, log 8); once a Step has been taken none loads until the next Reset; Step, Tick and SetKey
are always there after a Reset, and are `step`, `tick` and `setKey` of the core. -/
def Obligations.HostProtocol : Prop :=
  (∀ (op : Op) (s : State), op ≠ .reset → applyOp op ⟨.off, s⟩ = .refused .beforeReset)
  ∧ (∀ z : Session, applyOp .reset z = .next ⟨.ready, z.core.doReset⟩)
  ∧ (∀ (img : List Byte) (s : State),
      (img.length ≤ 3584 → ∃ t, s.loadImage img = .next t ∧ applyOp (.loadImage img) ⟨.ready, s⟩ = .next ⟨.loaded, t⟩)
      ∧ (3584 < img.length → applyOp (.loadImage img) ⟨.ready, s⟩ = .refused .imageTooLong))
  ∧ (∀ (img : List Byte) (p : Phase) (s : State), p = .loaded ∨ p = .running → applyOp (.loadImage img) ⟨p, s⟩ = .refused .lateLoad)
  ∧ ∀ (p : Phase) (s : State), p ≠ .off →
      (∃ t, step s = .next t ∧ applyOp .step ⟨p, s⟩ = .next ⟨.running, t⟩) ∧ applyOp .tick ⟨p, s⟩ = .next ⟨p, s.tick⟩
      ∧ ∀ k b, applyOp (.setKey k b) ⟨p, s⟩ = .next ⟨p, s.setKey k b⟩

/-- The outputs (10_state.md section 9; the numeric codes are the spec's decision D9, log 3): the display is FB, the sound is on exactly while ST is not 0, the fault code is FAULT's number, and the core
awaits a key exactly while WAIT is not none. -/
def Obligations.OutputsShowState : Prop :=
  ∀ s : State, readDisplay s = s.fb ∧ (soundActive s = true ↔ s.st ≠ 0) ∧ (awaitingKey s = true ↔ s.wait ≠ none)
    ∧ (faultOutput s).toNat = (match s.fault with | .none => 0 | .stackOverflow => 1 | .stackUnderflow => 2 | .memRange => 3)

/-- A jump to itself is an idle loop: from a core ready to fetch with the word `JP pc` at its pc, any number of Steps leaves all state
as it is (41_control_flow.md section 1). -/
def Obligations.SelfJumpIdles : Prop :=
  ∀ (s : State) (n : Nat), s.fault = .none → s.wait = none → s.pc.toNat ≤ 0xFFE → s.fetchWord = 0x1000#16 ||| s.pc →
    Host.Core.run core n s = .next s
end

