-- ==== Sys2Proof/Laws/Decode.lean ====
section
/-! SUPPORT. The decoder row by row: what a word decodes to when it matches a row, and what the fields of an encoded word are. -/

namespace Sys2Proof

/-- A word's bits under a narrower mask, from its bits under a wider one. -/
theorem and_of_and {op k m m' : Word} (h : op &&& m = k) (hm : m &&& m' = m') : op &&& m' = k &&& m' := by
  rw [← h, BitVec.and_assoc, hm]

/-- A word under the full mask is itself. -/
@[simp] theorem and_full (op : Word) : op &&& 65535#16 = op := BitVec.and_allOnes

/-- The decoder answers the first matching row's instruction, or the unknown sentinel when none matches (R94). -/
theorem decodeWith_cases (rows : List OpRow) (op : Word) :
    (∃ r ∈ rows, op &&& r.mask = r.pattern ∧ decodeWith rows op = r.build op)
      ∨ (∀ r ∈ rows, op &&& r.mask ≠ r.pattern) ∧ decodeWith rows op = .unknown op := by
  induction rows with
  | nil => exact .inr ⟨by simp, rfl⟩
  | cons r rows ih =>
    by_cases h : op &&& r.mask = r.pattern
    · exact .inl ⟨r, by simp, h, by simp [decodeWith, h]⟩
    · simp only [decodeWith, if_neg h]
      rcases ih with ⟨q, hq, hm, hb⟩ | ⟨hn, hb⟩
      · exact .inl ⟨q, by simp [hq], hm, hb⟩
      · exact .inr ⟨by simpa [h] using hn, hb⟩

/-- The opcode map as one list of rows, for simp. -/
theorem decodeWord_eq (op : Word) : decodeWord op = decodeWith (exactRows ++ topNibbleRows ++ eightRows ++ keyRows ++ effRows) op :=
  rfl

variable {op : Word}

/-- A word whose top nibble is not 0 is neither 00E0 nor 00EE. -/
theorem not_exact_of_top {k : Word} (h : op &&& 61440#16 = k) (hk : k ≠ 0) : op ≠ 224#16 ∧ op ≠ 238#16 := by
  constructor <;> rintro rfl <;> exact hk (h.symm.trans (by decide))

/-- Row `sys` (R96), after the exact rows 1 and 2. -/
theorem decodeWord_sys (h : op &&& 0xF000#16 = 0x0000#16) (h1 : op ≠ 0x00E0#16) (h2 : op ≠ 0x00EE#16) :
    decodeWord op = .sys (opAddr op) := by
  simp [decodeWord, opcodeMap, exactRows, topNibbleRows, decodeWith, h, h1, h2]

/-- Row `jp` (R96). -/
theorem decodeWord_jp (h : op &&& 0xF000#16 = 0x1000#16) : decodeWord op = .jp (opAddr op) := by
  have h0 := not_exact_of_top h (by decide)
  simp [decodeWord, opcodeMap, exactRows, topNibbleRows, decodeWith, h, h0]

/-- Row `call` (R96). -/
theorem decodeWord_call (h : op &&& 0xF000#16 = 0x2000#16) : decodeWord op = .call (opAddr op) := by
  have h0 := not_exact_of_top h (by decide)
  simp [decodeWord, opcodeMap, exactRows, topNibbleRows, decodeWith, h, h0]

/-- Row `seVxByte` (R96). -/
theorem decodeWord_seVxByte (h : op &&& 0xF000#16 = 0x3000#16) : decodeWord op = .seVxByte (opX op) (opB op) := by
  have h0 := not_exact_of_top h (by decide)
  simp [decodeWord, opcodeMap, exactRows, topNibbleRows, decodeWith, h, h0]

/-- Row `sneVxByte` (R96). -/
theorem decodeWord_sneVxByte (h : op &&& 0xF000#16 = 0x4000#16) : decodeWord op = .sneVxByte (opX op) (opB op) := by
  have h0 := not_exact_of_top h (by decide)
  simp [decodeWord, opcodeMap, exactRows, topNibbleRows, decodeWith, h, h0]

/-- Row `seVxVy` (R96). -/
theorem decodeWord_seVxVy (h : op &&& 0xF000#16 = 0x5000#16) : decodeWord op = .seVxVy (opX op) (opY op) := by
  have h0 := not_exact_of_top h (by decide)
  simp [decodeWord, opcodeMap, exactRows, topNibbleRows, decodeWith, h, h0]

/-- Row `ldVxByte` (R96). -/
theorem decodeWord_ldVxByte (h : op &&& 0xF000#16 = 0x6000#16) : decodeWord op = .ldVxByte (opX op) (opB op) := by
  have h0 := not_exact_of_top h (by decide)
  simp [decodeWord, opcodeMap, exactRows, topNibbleRows, decodeWith, h, h0]

/-- Row `addVxByte` (R96). -/
theorem decodeWord_addVxByte (h : op &&& 0xF000#16 = 0x7000#16) : decodeWord op = .addVxByte (opX op) (opB op) := by
  have h0 := not_exact_of_top h (by decide)
  simp [decodeWord, opcodeMap, exactRows, topNibbleRows, decodeWith, h, h0]

/-- Row `sneVxVy` (R96). -/
theorem decodeWord_sneVxVy (h : op &&& 0xF000#16 = 0x9000#16) : decodeWord op = .sneVxVy (opX op) (opY op) := by
  have h0 := not_exact_of_top h (by decide)
  simp [decodeWord, opcodeMap, exactRows, topNibbleRows, decodeWith, h, h0]

/-- Row `ldIAddr` (R96). -/
theorem decodeWord_ldIAddr (h : op &&& 0xF000#16 = 0xA000#16) : decodeWord op = .ldIAddr (opAddr op) := by
  have h0 := not_exact_of_top h (by decide)
  simp [decodeWord, opcodeMap, exactRows, topNibbleRows, decodeWith, h, h0]

/-- Row `jpV0Addr` (R96). -/
theorem decodeWord_jpV0Addr (h : op &&& 0xF000#16 = 0xB000#16) : decodeWord op = .jpV0Addr (opAddr op) := by
  have h0 := not_exact_of_top h (by decide)
  simp [decodeWord, opcodeMap, exactRows, topNibbleRows, decodeWith, h, h0]

/-- Row `rndVxByte` (R96). -/
theorem decodeWord_rndVxByte (h : op &&& 0xF000#16 = 0xC000#16) : decodeWord op = .rndVxByte (opX op) (opB op) := by
  have h0 := not_exact_of_top h (by decide)
  simp [decodeWord, opcodeMap, exactRows, topNibbleRows, decodeWith, h, h0]

/-- Row `drwVxVyN` (R96). -/
theorem decodeWord_drwVxVyN (h : op &&& 0xF000#16 = 0xD000#16) : decodeWord op = .drwVxVyN (opX op) (opY op) (opN op) := by
  have h0 := not_exact_of_top h (by decide)
  simp [decodeWord, opcodeMap, exactRows, topNibbleRows, decodeWith, h, h0]

/-- Row `ldVxVy` (R96). -/
theorem decodeWord_ldVxVy (h : op &&& 0xF00F#16 = 0x8000#16) : decodeWord op = .ldVxVy (opX op) (opY op) := by
  have ht : op &&& 0xF000#16 = _ := and_of_and h (by decide)
  have h0 := not_exact_of_top ht (by decide)
  simp [decodeWord, opcodeMap, exactRows, topNibbleRows, eightRows, keyRows, effRows, decodeWith, h, ht, h0]

/-- Row `orVxVy` (R96). -/
theorem decodeWord_orVxVy (h : op &&& 0xF00F#16 = 0x8001#16) : decodeWord op = .orVxVy (opX op) (opY op) := by
  have ht : op &&& 0xF000#16 = _ := and_of_and h (by decide)
  have h0 := not_exact_of_top ht (by decide)
  simp [decodeWord, opcodeMap, exactRows, topNibbleRows, eightRows, keyRows, effRows, decodeWith, h, ht, h0]

/-- Row `andVxVy` (R96). -/
theorem decodeWord_andVxVy (h : op &&& 0xF00F#16 = 0x8002#16) : decodeWord op = .andVxVy (opX op) (opY op) := by
  have ht : op &&& 0xF000#16 = _ := and_of_and h (by decide)
  have h0 := not_exact_of_top ht (by decide)
  simp [decodeWord, opcodeMap, exactRows, topNibbleRows, eightRows, keyRows, effRows, decodeWith, h, ht, h0]

/-- Row `xorVxVy` (R96). -/
theorem decodeWord_xorVxVy (h : op &&& 0xF00F#16 = 0x8003#16) : decodeWord op = .xorVxVy (opX op) (opY op) := by
  have ht : op &&& 0xF000#16 = _ := and_of_and h (by decide)
  have h0 := not_exact_of_top ht (by decide)
  simp [decodeWord, opcodeMap, exactRows, topNibbleRows, eightRows, keyRows, effRows, decodeWith, h, ht, h0]

/-- Row `addVxVy` (R96). -/
theorem decodeWord_addVxVy (h : op &&& 0xF00F#16 = 0x8004#16) : decodeWord op = .addVxVy (opX op) (opY op) := by
  have ht : op &&& 0xF000#16 = _ := and_of_and h (by decide)
  have h0 := not_exact_of_top ht (by decide)
  simp [decodeWord, opcodeMap, exactRows, topNibbleRows, eightRows, keyRows, effRows, decodeWith, h, ht, h0]

/-- Row `subVxVy` (R96). -/
theorem decodeWord_subVxVy (h : op &&& 0xF00F#16 = 0x8005#16) : decodeWord op = .subVxVy (opX op) (opY op) := by
  have ht : op &&& 0xF000#16 = _ := and_of_and h (by decide)
  have h0 := not_exact_of_top ht (by decide)
  simp [decodeWord, opcodeMap, exactRows, topNibbleRows, eightRows, keyRows, effRows, decodeWith, h, ht, h0]

/-- Row `shrVx` (R96). -/
theorem decodeWord_shrVx (h : op &&& 0xF00F#16 = 0x8006#16) : decodeWord op = .shrVx (opX op) := by
  have ht : op &&& 0xF000#16 = _ := and_of_and h (by decide)
  have h0 := not_exact_of_top ht (by decide)
  simp [decodeWord, opcodeMap, exactRows, topNibbleRows, eightRows, keyRows, effRows, decodeWith, h, ht, h0]

/-- Row `subnVxVy` (R96). -/
theorem decodeWord_subnVxVy (h : op &&& 0xF00F#16 = 0x8007#16) : decodeWord op = .subnVxVy (opX op) (opY op) := by
  have ht : op &&& 0xF000#16 = _ := and_of_and h (by decide)
  have h0 := not_exact_of_top ht (by decide)
  simp [decodeWord, opcodeMap, exactRows, topNibbleRows, eightRows, keyRows, effRows, decodeWith, h, ht, h0]

/-- Row `shlVx` (R96). -/
theorem decodeWord_shlVx (h : op &&& 0xF00F#16 = 0x800E#16) : decodeWord op = .shlVx (opX op) := by
  have ht : op &&& 0xF000#16 = _ := and_of_and h (by decide)
  have h0 := not_exact_of_top ht (by decide)
  simp [decodeWord, opcodeMap, exactRows, topNibbleRows, eightRows, keyRows, effRows, decodeWith, h, ht, h0]

/-- Row `skpVx` (R96). -/
theorem decodeWord_skpVx (h : op &&& 0xF00F#16 = 0xE00E#16) : decodeWord op = .skpVx (opX op) := by
  have ht : op &&& 0xF000#16 = _ := and_of_and h (by decide)
  have h0 := not_exact_of_top ht (by decide)
  simp [decodeWord, opcodeMap, exactRows, topNibbleRows, eightRows, keyRows, effRows, decodeWith, h, ht, h0]

/-- Row `sknpVx` (R96). -/
theorem decodeWord_sknpVx (h : op &&& 0xF00F#16 = 0xE001#16) : decodeWord op = .sknpVx (opX op) := by
  have ht : op &&& 0xF000#16 = _ := and_of_and h (by decide)
  have h0 := not_exact_of_top ht (by decide)
  simp [decodeWord, opcodeMap, exactRows, topNibbleRows, eightRows, keyRows, effRows, decodeWith, h, ht, h0]

/-- Row `ldVxDt` (R96). -/
theorem decodeWord_ldVxDt (h : op &&& 0xF0FF#16 = 0xF007#16) : decodeWord op = .ldVxDt (opX op) := by
  have ht : op &&& 0xF000#16 = _ := and_of_and h (by decide)
  have hl : op &&& 0xF00F#16 = _ := and_of_and h (by decide)
  have h0 := not_exact_of_top ht (by decide)
  simp [decodeWord, opcodeMap, exactRows, topNibbleRows, eightRows, keyRows, effRows, decodeWith, h, hl, ht, h0]

/-- Row `ldVxK` (R96). -/
theorem decodeWord_ldVxK (h : op &&& 0xF0FF#16 = 0xF00A#16) : decodeWord op = .ldVxK (opX op) := by
  have ht : op &&& 0xF000#16 = _ := and_of_and h (by decide)
  have hl : op &&& 0xF00F#16 = _ := and_of_and h (by decide)
  have h0 := not_exact_of_top ht (by decide)
  simp [decodeWord, opcodeMap, exactRows, topNibbleRows, eightRows, keyRows, effRows, decodeWith, h, hl, ht, h0]

/-- Row `ldDtVx` (R96). -/
theorem decodeWord_ldDtVx (h : op &&& 0xF0FF#16 = 0xF015#16) : decodeWord op = .ldDtVx (opX op) := by
  have ht : op &&& 0xF000#16 = _ := and_of_and h (by decide)
  have hl : op &&& 0xF00F#16 = _ := and_of_and h (by decide)
  have h0 := not_exact_of_top ht (by decide)
  simp [decodeWord, opcodeMap, exactRows, topNibbleRows, eightRows, keyRows, effRows, decodeWith, h, hl, ht, h0]

/-- Row `ldStVx` (R96). -/
theorem decodeWord_ldStVx (h : op &&& 0xF0FF#16 = 0xF018#16) : decodeWord op = .ldStVx (opX op) := by
  have ht : op &&& 0xF000#16 = _ := and_of_and h (by decide)
  have hl : op &&& 0xF00F#16 = _ := and_of_and h (by decide)
  have h0 := not_exact_of_top ht (by decide)
  simp [decodeWord, opcodeMap, exactRows, topNibbleRows, eightRows, keyRows, effRows, decodeWith, h, hl, ht, h0]

/-- Row `addIVx` (R96). -/
theorem decodeWord_addIVx (h : op &&& 0xF0FF#16 = 0xF01E#16) : decodeWord op = .addIVx (opX op) := by
  have ht : op &&& 0xF000#16 = _ := and_of_and h (by decide)
  have hl : op &&& 0xF00F#16 = _ := and_of_and h (by decide)
  have h0 := not_exact_of_top ht (by decide)
  simp [decodeWord, opcodeMap, exactRows, topNibbleRows, eightRows, keyRows, effRows, decodeWith, h, hl, ht, h0]

/-- Row `ldFVx` (R96). -/
theorem decodeWord_ldFVx (h : op &&& 0xF0FF#16 = 0xF029#16) : decodeWord op = .ldFVx (opX op) := by
  have ht : op &&& 0xF000#16 = _ := and_of_and h (by decide)
  have hl : op &&& 0xF00F#16 = _ := and_of_and h (by decide)
  have h0 := not_exact_of_top ht (by decide)
  simp [decodeWord, opcodeMap, exactRows, topNibbleRows, eightRows, keyRows, effRows, decodeWith, h, hl, ht, h0]

/-- Row `ldBVx` (R96). -/
theorem decodeWord_ldBVx (h : op &&& 0xF0FF#16 = 0xF033#16) : decodeWord op = .ldBVx (opX op) := by
  have ht : op &&& 0xF000#16 = _ := and_of_and h (by decide)
  have hl : op &&& 0xF00F#16 = _ := and_of_and h (by decide)
  have h0 := not_exact_of_top ht (by decide)
  simp [decodeWord, opcodeMap, exactRows, topNibbleRows, eightRows, keyRows, effRows, decodeWith, h, hl, ht, h0]

/-- Row `ldMemVx` (R96). -/
theorem decodeWord_ldMemVx (h : op &&& 0xF0FF#16 = 0xF055#16) : decodeWord op = .ldMemVx (opX op) := by
  have ht : op &&& 0xF000#16 = _ := and_of_and h (by decide)
  have hl : op &&& 0xF00F#16 = _ := and_of_and h (by decide)
  have h0 := not_exact_of_top ht (by decide)
  simp [decodeWord, opcodeMap, exactRows, topNibbleRows, eightRows, keyRows, effRows, decodeWith, h, hl, ht, h0]

/-- Row `ldVxMem` (R96). -/
theorem decodeWord_ldVxMem (h : op &&& 0xF0FF#16 = 0xF065#16) : decodeWord op = .ldVxMem (opX op) := by
  have ht : op &&& 0xF000#16 = _ := and_of_and h (by decide)
  have hl : op &&& 0xF00F#16 = _ := and_of_and h (by decide)
  have h0 := not_exact_of_top ht (by decide)
  simp [decodeWord, opcodeMap, exactRows, topNibbleRows, eightRows, keyRows, effRows, decodeWith, h, hl, ht, h0]

end Sys2Proof
end

