-- ==== Sys2Proof/Laws/Memory.lean ====
section
/-! SUPPORT. What the memory operations do: a read after a write, and that every write keeps the canonical form. -/

namespace Sys2Proof.Machine

@[simp] theorem Memory.read_nil (a : Nat) : Memory.read [] a = Memory.initial a := rfl

/-- Outside the font an unlisted address reads as 0 (R48). -/
theorem Memory.initial_of_ge {a : Nat} (h : 80 ≤ a) : Memory.initial a = 0 := by
  simp [Memory.initial, show ¬ a < 80 by omega]

/-- Inside the font an unlisted address reads as the font's byte (R36, R48). -/
theorem Memory.initial_of_lt {a : Nat} (h : a < 80) : Memory.initial a = font.getD a 0 := by
  simp [Memory.initial, h]

/-- Entries at or below `a` do not matter to a read above `a`. -/
theorem Memory.read_dropWhile_of_lt (m : Memory) {a k : Nat} (h : a < k) :
    Memory.read (m.dropWhile fun e => decide (e.1 ≤ a)) k = Memory.read m k := by
  induction m with
  | nil => rfl
  | cons e m ih =>
    obtain ⟨j, c⟩ := e
    by_cases hj : j ≤ a
    · rw [List.dropWhile_cons_of_pos (by simpa using hj), ih]
      simp [Memory.read, show k ≠ j by omega, show ¬ k < j by omega]
    · rw [List.dropWhile_cons_of_neg (by simpa using hj)]

/-- With the entries at or below `a` dropped, `a` and everything below reads as the reset contents. -/
theorem Memory.read_dropWhile_of_le (m : Memory) {a k : Nat} (h : k ≤ a) :
    Memory.read (m.dropWhile fun e => decide (e.1 ≤ a)) k = Memory.initial k := by
  induction m with
  | nil => rfl
  | cons e m ih =>
    obtain ⟨j, c⟩ := e
    by_cases hj : j ≤ a
    · rw [List.dropWhile_cons_of_pos (by simpa using hj), ih]
    · rw [List.dropWhile_cons_of_neg (by simpa using hj)]
      simp [Memory.read, show k ≠ j by omega, show k < j by omega]

/-- A read after a write of one byte, in every memory, canonical or not. -/
theorem Memory.read_write (m : Memory) (a k : Nat) (b : Byte) :
    Memory.read (Memory.write m a b) k = if k = a then b else Memory.read m k := by
  induction m with
  | nil =>
    unfold Memory.write Memory.cell
    split <;> by_cases hk : k = a <;> simp_all [Memory.read]
  | cons e m ih =>
    obtain ⟨j, c⟩ := e
    unfold Memory.write
    by_cases hj : j < a
    · rw [if_pos hj]
      simp only [Memory.read, ih]
      by_cases hk : k = j
      · simp [hk, show j ≠ a by omega]
      · by_cases hlt : k < j
        · simp [hk, hlt, show k ≠ a by omega]
        · simp [hk, hlt]
    · rw [if_neg hj]
      have tail : ∀ n, n = a ∨ n < a → Memory.read (((j, c) :: m).dropWhile fun e => decide (e.1 ≤ a)) n = Memory.initial n :=
        fun n hn => Memory.read_dropWhile_of_le _ (by omega)
      have below : k < a → Memory.read ((j, c) :: m) k = Memory.initial k := fun h => by
        simp [Memory.read, show k ≠ j by omega, show k < j by omega]
      have above : a < k → Memory.read (((j, c) :: m).dropWhile fun e => decide (e.1 ≤ a)) k = Memory.read ((j, c) :: m) k :=
        fun h => Memory.read_dropWhile_of_lt _ h
      unfold Memory.cell
      split
      · rename_i hb
        rcases Nat.lt_trichotomy k a with h | h | h
        · rw [List.nil_append, tail k (.inr h), if_neg (by omega), below h]
        · rw [List.nil_append, tail k (.inl h), if_pos h, hb, h]
        · rw [List.nil_append, above h, if_neg (by omega)]
      · rw [List.singleton_append, Memory.read]
        rcases Nat.lt_trichotomy k a with h | h | h
        · rw [if_neg (by omega), if_pos h, if_neg (by omega), below h]
        · rw [if_pos h, if_pos h]
        · rw [if_neg (by omega), if_neg (by omega), if_neg (by omega), above h]

/-- A canonical memory from `lo` on is one from any lower address on. -/
theorem Memory.wfFrom_mono {m : Memory} {lo lo' : Nat} (h : lo' ≤ lo) (hm : Memory.wfFrom lo m = true) :
    Memory.wfFrom lo' m = true := by
  cases m with
  | nil => rfl
  | cons e m => simp [Memory.wfFrom] at hm ⊢; exact ⟨⟨⟨by omega, hm.1.1.2⟩, hm.1.2⟩, hm.2⟩

/-- In a canonical memory only the first entry can be at or below its own address. -/
theorem Memory.wfFrom_dropWhile {m : Memory} {lo a : Nat} (hlo : lo ≤ a) (hm : Memory.wfFrom lo m = true) :
    Memory.wfFrom (a + 1) (m.dropWhile fun e => decide (e.1 ≤ a)) = true := by
  induction m generalizing lo with
  | nil => rfl
  | cons e m ih =>
    obtain ⟨j, c⟩ := e
    simp only [Memory.wfFrom, Bool.and_eq_true, decide_eq_true_eq] at hm
    by_cases hj : j ≤ a
    · rw [List.dropWhile_cons_of_pos (by simpa using hj)]
      by_cases h : j + 1 ≤ a
      · exact ih h hm.2
      · have : j = a := by omega
        subst this
        cases m with
        | nil => rfl
        | cons e' m' =>
          have h' := hm.2
          simp only [Memory.wfFrom, Bool.and_eq_true, decide_eq_true_eq] at h'
          rw [List.dropWhile_cons_of_neg (by simp; omega)]
          simp only [Memory.wfFrom, Bool.and_eq_true, decide_eq_true_eq]
          exact h'
    · rw [List.dropWhile_cons_of_neg (by simpa using hj)]
      simp only [Memory.wfFrom, Bool.and_eq_true, decide_eq_true_eq]
      exact ⟨⟨⟨by omega, hm.1.1.2⟩, hm.1.2⟩, hm.2⟩

/-- Writing a byte inside memory keeps the canonical form, from any start at or below the address. -/
theorem Memory.wfFrom_write {m : Memory} {lo a : Nat} (b : Byte) (ha : a < Config.memSize) (hlo : lo ≤ a)
    (hm : Memory.wfFrom lo m = true) : Memory.wfFrom lo (Memory.write m a b) = true := by
  have hcell : ∀ m' : Memory, Memory.wfFrom (a + 1) m' = true → Memory.wfFrom lo (Memory.cell a b ++ m') = true := by
    intro m' h'
    unfold Memory.cell
    split
    · exact Memory.wfFrom_mono (by omega) h'
    · simp [Memory.wfFrom, hlo, ha, h']; assumption
  induction m generalizing lo with
  | nil => simpa [Memory.write] using hcell [] rfl
  | cons e m ih =>
    obtain ⟨j, c⟩ := e
    unfold Memory.write
    by_cases hj : j < a
    · rw [if_pos hj]
      simp only [Memory.wfFrom, Bool.and_eq_true, decide_eq_true_eq] at hm ⊢
      refine ⟨hm.1, ih (by omega) hm.2 ?_⟩
      intro m' h'
      unfold Memory.cell
      split
      · exact Memory.wfFrom_mono (by omega) h'
      · simp [Memory.wfFrom, ha, h']; exact ⟨by omega, by assumption⟩
    · rw [if_neg hj]
      exact hcell _ (Memory.wfFrom_dropWhile hlo hm)

/-- Writing a byte inside memory keeps the canonical form. -/
theorem Memory.wf_write {m : Memory} {a : Nat} (b : Byte) (ha : a < Config.memSize) (hm : Memory.wf m = true) :
    Memory.wf (Memory.write m a b) = true :=
  Memory.wfFrom_write b ha (Nat.zero_le _) hm

/-- A read after a write of a run of bytes: the run's byte inside it, the old byte outside. -/
theorem Memory.read_writeBytes (m : Memory) (a k : Nat) (bs : List Byte) :
    Memory.read (Memory.writeBytes m a bs) k
      = if a ≤ k ∧ k < a + bs.length then bs.getD (k - a) 0 else Memory.read m k := by
  induction bs generalizing m a with
  | nil => rw [if_neg (by simp)]; rfl
  | cons b bs ih =>
    rw [Memory.writeBytes, ih, Memory.read_write]
    by_cases h : k = a
    · subst h; simp
    · simp only [h, if_false, List.length_cons]
      by_cases h2 : a + 1 ≤ k ∧ k < a + 1 + bs.length
      · rw [if_pos h2, if_pos (by omega), show k - a = (k - (a + 1)) + 1 by omega, List.getD_cons_succ]
      · rw [if_neg h2, if_neg (by omega)]

/-- Writing a run of bytes inside memory keeps the canonical form. -/
theorem Memory.wf_writeBytes {m : Memory} {a : Nat} (bs : List Byte) (ha : bs = [] ∨ a + bs.length ≤ Config.memSize)
    (hm : Memory.wf m = true) : Memory.wf (Memory.writeBytes m a bs) = true := by
  induction bs generalizing m a with
  | nil => exact hm
  | cons b bs ih =>
    have h : a + (bs.length + 1) ≤ Config.memSize := by simpa using ha
    exact ih (by by_cases hb : bs = [] <;> [exact .inl hb; exact .inr (by omega)]) (Memory.wf_write b (by omega) hm)

@[simp] theorem Memory.length_readBytes (m : Memory) (a n : Nat) : (Memory.readBytes m a n).length = n := by
  induction n generalizing a with
  | zero => rfl
  | succ n ih => simp [Memory.readBytes, ih]

/-- Byte `j` of a run read at `a` is the byte at `a + j`. -/
theorem Memory.getD_readBytes (m : Memory) (a n j : Nat) (hj : j < n) :
    (Memory.readBytes m a n).getD j 0 = Memory.read m (a + j) := by
  induction n generalizing a j with
  | zero => omega
  | succ n ih =>
    cases j with
    | zero => simp [Memory.readBytes]
    | succ j =>
      rw [Memory.readBytes, List.getD_cons_succ, ih _ _ (by omega)]
      congr 1
      omega

/-- Below its start a canonical memory reads as the reset contents. -/
theorem Memory.read_of_wfFrom_lt {m : Memory} {lo k : Nat} (hm : Memory.wfFrom lo m = true) (hk : k < lo) :
    Memory.read m k = Memory.initial k := by
  cases m with
  | nil => rfl
  | cons e m =>
    simp only [Memory.wfFrom, Bool.and_eq_true, decide_eq_true_eq] at hm
    simp [Memory.read, show k ≠ e.1 by omega, show k < e.1 by omega]

/-- Reset leaves the canonical memory. -/
theorem Memory.wf_reset : Memory.wf State.reset.mem = true := rfl

end Sys2Proof.Machine
end

