-- ==== Sys2Proof/Laws/State.lean ====
section
/-! SUPPORT. One lemma per field per update of State, true by rfl, and the read-after-write laws of the register file, the stack
and the keys, so that no later proof unfolds a record update. -/

namespace Sys2Proof.Machine

variable (s : State)

/-! ### writeV -/

@[simp] theorem State.writeV_v (x : Nibble) (b : Byte) : (s.writeV x b).v = s.v.set x.toNat b := rfl
@[simp] theorem State.writeV_i (x : Nibble) (b : Byte) : (s.writeV x b).i = s.i := rfl
@[simp] theorem State.writeV_pc (x : Nibble) (b : Byte) : (s.writeV x b).pc = s.pc := rfl
@[simp] theorem State.writeV_sp (x : Nibble) (b : Byte) : (s.writeV x b).sp = s.sp := rfl
@[simp] theorem State.writeV_stack (x : Nibble) (b : Byte) : (s.writeV x b).stack = s.stack := rfl
@[simp] theorem State.writeV_dt (x : Nibble) (b : Byte) : (s.writeV x b).dt = s.dt := rfl
@[simp] theorem State.writeV_st (x : Nibble) (b : Byte) : (s.writeV x b).st = s.st := rfl
@[simp] theorem State.writeV_mem (x : Nibble) (b : Byte) : (s.writeV x b).mem = s.mem := rfl
@[simp] theorem State.writeV_fb (x : Nibble) (b : Byte) : (s.writeV x b).fb = s.fb := rfl
@[simp] theorem State.writeV_keys (x : Nibble) (b : Byte) : (s.writeV x b).keys = s.keys := rfl
@[simp] theorem State.writeV_wait (x : Nibble) (b : Byte) : (s.writeV x b).wait = s.wait := rfl
@[simp] theorem State.writeV_keyEvent (x : Nibble) (b : Byte) : (s.writeV x b).keyEvent = s.keyEvent := rfl
@[simp] theorem State.writeV_fault (x : Nibble) (b : Byte) : (s.writeV x b).fault = s.fault := rfl
@[simp] theorem State.writeV_draws (x : Nibble) (b : Byte) : (s.writeV x b).draws = s.draws := rfl

/-! ### setV -/

@[simp] theorem State.setV_v (v : Vector Byte 16) : (s.setV v).v = v := rfl
@[simp] theorem State.setV_i (v : Vector Byte 16) : (s.setV v).i = s.i := rfl
@[simp] theorem State.setV_pc (v : Vector Byte 16) : (s.setV v).pc = s.pc := rfl
@[simp] theorem State.setV_sp (v : Vector Byte 16) : (s.setV v).sp = s.sp := rfl
@[simp] theorem State.setV_stack (v : Vector Byte 16) : (s.setV v).stack = s.stack := rfl
@[simp] theorem State.setV_dt (v : Vector Byte 16) : (s.setV v).dt = s.dt := rfl
@[simp] theorem State.setV_st (v : Vector Byte 16) : (s.setV v).st = s.st := rfl
@[simp] theorem State.setV_mem (v : Vector Byte 16) : (s.setV v).mem = s.mem := rfl
@[simp] theorem State.setV_fb (v : Vector Byte 16) : (s.setV v).fb = s.fb := rfl
@[simp] theorem State.setV_keys (v : Vector Byte 16) : (s.setV v).keys = s.keys := rfl
@[simp] theorem State.setV_wait (v : Vector Byte 16) : (s.setV v).wait = s.wait := rfl
@[simp] theorem State.setV_keyEvent (v : Vector Byte 16) : (s.setV v).keyEvent = s.keyEvent := rfl
@[simp] theorem State.setV_fault (v : Vector Byte 16) : (s.setV v).fault = s.fault := rfl
@[simp] theorem State.setV_draws (v : Vector Byte 16) : (s.setV v).draws = s.draws := rfl

/-! ### setI -/

@[simp] theorem State.setI_v (w : Word) : (s.setI w).v = s.v := rfl
@[simp] theorem State.setI_i (w : Word) : (s.setI w).i = w := rfl
@[simp] theorem State.setI_pc (w : Word) : (s.setI w).pc = s.pc := rfl
@[simp] theorem State.setI_sp (w : Word) : (s.setI w).sp = s.sp := rfl
@[simp] theorem State.setI_stack (w : Word) : (s.setI w).stack = s.stack := rfl
@[simp] theorem State.setI_dt (w : Word) : (s.setI w).dt = s.dt := rfl
@[simp] theorem State.setI_st (w : Word) : (s.setI w).st = s.st := rfl
@[simp] theorem State.setI_mem (w : Word) : (s.setI w).mem = s.mem := rfl
@[simp] theorem State.setI_fb (w : Word) : (s.setI w).fb = s.fb := rfl
@[simp] theorem State.setI_keys (w : Word) : (s.setI w).keys = s.keys := rfl
@[simp] theorem State.setI_wait (w : Word) : (s.setI w).wait = s.wait := rfl
@[simp] theorem State.setI_keyEvent (w : Word) : (s.setI w).keyEvent = s.keyEvent := rfl
@[simp] theorem State.setI_fault (w : Word) : (s.setI w).fault = s.fault := rfl
@[simp] theorem State.setI_draws (w : Word) : (s.setI w).draws = s.draws := rfl

/-! ### setPc -/

@[simp] theorem State.setPc_v (w : Word) : (s.setPc w).v = s.v := rfl
@[simp] theorem State.setPc_i (w : Word) : (s.setPc w).i = s.i := rfl
@[simp] theorem State.setPc_pc (w : Word) : (s.setPc w).pc = w := rfl
@[simp] theorem State.setPc_sp (w : Word) : (s.setPc w).sp = s.sp := rfl
@[simp] theorem State.setPc_stack (w : Word) : (s.setPc w).stack = s.stack := rfl
@[simp] theorem State.setPc_dt (w : Word) : (s.setPc w).dt = s.dt := rfl
@[simp] theorem State.setPc_st (w : Word) : (s.setPc w).st = s.st := rfl
@[simp] theorem State.setPc_mem (w : Word) : (s.setPc w).mem = s.mem := rfl
@[simp] theorem State.setPc_fb (w : Word) : (s.setPc w).fb = s.fb := rfl
@[simp] theorem State.setPc_keys (w : Word) : (s.setPc w).keys = s.keys := rfl
@[simp] theorem State.setPc_wait (w : Word) : (s.setPc w).wait = s.wait := rfl
@[simp] theorem State.setPc_keyEvent (w : Word) : (s.setPc w).keyEvent = s.keyEvent := rfl
@[simp] theorem State.setPc_fault (w : Word) : (s.setPc w).fault = s.fault := rfl
@[simp] theorem State.setPc_draws (w : Word) : (s.setPc w).draws = s.draws := rfl

/-! ### setSp -/

@[simp] theorem State.setSp_v (p : Nibble) : (s.setSp p).v = s.v := rfl
@[simp] theorem State.setSp_i (p : Nibble) : (s.setSp p).i = s.i := rfl
@[simp] theorem State.setSp_pc (p : Nibble) : (s.setSp p).pc = s.pc := rfl
@[simp] theorem State.setSp_sp (p : Nibble) : (s.setSp p).sp = p := rfl
@[simp] theorem State.setSp_stack (p : Nibble) : (s.setSp p).stack = s.stack := rfl
@[simp] theorem State.setSp_dt (p : Nibble) : (s.setSp p).dt = s.dt := rfl
@[simp] theorem State.setSp_st (p : Nibble) : (s.setSp p).st = s.st := rfl
@[simp] theorem State.setSp_mem (p : Nibble) : (s.setSp p).mem = s.mem := rfl
@[simp] theorem State.setSp_fb (p : Nibble) : (s.setSp p).fb = s.fb := rfl
@[simp] theorem State.setSp_keys (p : Nibble) : (s.setSp p).keys = s.keys := rfl
@[simp] theorem State.setSp_wait (p : Nibble) : (s.setSp p).wait = s.wait := rfl
@[simp] theorem State.setSp_keyEvent (p : Nibble) : (s.setSp p).keyEvent = s.keyEvent := rfl
@[simp] theorem State.setSp_fault (p : Nibble) : (s.setSp p).fault = s.fault := rfl
@[simp] theorem State.setSp_draws (p : Nibble) : (s.setSp p).draws = s.draws := rfl

/-! ### writeStack -/

@[simp] theorem State.writeStack_v (j : Nibble) (w : Word) : (s.writeStack j w).v = s.v := rfl
@[simp] theorem State.writeStack_i (j : Nibble) (w : Word) : (s.writeStack j w).i = s.i := rfl
@[simp] theorem State.writeStack_pc (j : Nibble) (w : Word) : (s.writeStack j w).pc = s.pc := rfl
@[simp] theorem State.writeStack_sp (j : Nibble) (w : Word) : (s.writeStack j w).sp = s.sp := rfl
@[simp] theorem State.writeStack_stack (j : Nibble) (w : Word) : (s.writeStack j w).stack = s.stack.set j.toNat w := rfl
@[simp] theorem State.writeStack_dt (j : Nibble) (w : Word) : (s.writeStack j w).dt = s.dt := rfl
@[simp] theorem State.writeStack_st (j : Nibble) (w : Word) : (s.writeStack j w).st = s.st := rfl
@[simp] theorem State.writeStack_mem (j : Nibble) (w : Word) : (s.writeStack j w).mem = s.mem := rfl
@[simp] theorem State.writeStack_fb (j : Nibble) (w : Word) : (s.writeStack j w).fb = s.fb := rfl
@[simp] theorem State.writeStack_keys (j : Nibble) (w : Word) : (s.writeStack j w).keys = s.keys := rfl
@[simp] theorem State.writeStack_wait (j : Nibble) (w : Word) : (s.writeStack j w).wait = s.wait := rfl
@[simp] theorem State.writeStack_keyEvent (j : Nibble) (w : Word) : (s.writeStack j w).keyEvent = s.keyEvent := rfl
@[simp] theorem State.writeStack_fault (j : Nibble) (w : Word) : (s.writeStack j w).fault = s.fault := rfl
@[simp] theorem State.writeStack_draws (j : Nibble) (w : Word) : (s.writeStack j w).draws = s.draws := rfl

/-! ### setDt -/

@[simp] theorem State.setDt_v (b : Byte) : (s.setDt b).v = s.v := rfl
@[simp] theorem State.setDt_i (b : Byte) : (s.setDt b).i = s.i := rfl
@[simp] theorem State.setDt_pc (b : Byte) : (s.setDt b).pc = s.pc := rfl
@[simp] theorem State.setDt_sp (b : Byte) : (s.setDt b).sp = s.sp := rfl
@[simp] theorem State.setDt_stack (b : Byte) : (s.setDt b).stack = s.stack := rfl
@[simp] theorem State.setDt_dt (b : Byte) : (s.setDt b).dt = b := rfl
@[simp] theorem State.setDt_st (b : Byte) : (s.setDt b).st = s.st := rfl
@[simp] theorem State.setDt_mem (b : Byte) : (s.setDt b).mem = s.mem := rfl
@[simp] theorem State.setDt_fb (b : Byte) : (s.setDt b).fb = s.fb := rfl
@[simp] theorem State.setDt_keys (b : Byte) : (s.setDt b).keys = s.keys := rfl
@[simp] theorem State.setDt_wait (b : Byte) : (s.setDt b).wait = s.wait := rfl
@[simp] theorem State.setDt_keyEvent (b : Byte) : (s.setDt b).keyEvent = s.keyEvent := rfl
@[simp] theorem State.setDt_fault (b : Byte) : (s.setDt b).fault = s.fault := rfl
@[simp] theorem State.setDt_draws (b : Byte) : (s.setDt b).draws = s.draws := rfl

/-! ### setSt -/

@[simp] theorem State.setSt_v (b : Byte) : (s.setSt b).v = s.v := rfl
@[simp] theorem State.setSt_i (b : Byte) : (s.setSt b).i = s.i := rfl
@[simp] theorem State.setSt_pc (b : Byte) : (s.setSt b).pc = s.pc := rfl
@[simp] theorem State.setSt_sp (b : Byte) : (s.setSt b).sp = s.sp := rfl
@[simp] theorem State.setSt_stack (b : Byte) : (s.setSt b).stack = s.stack := rfl
@[simp] theorem State.setSt_dt (b : Byte) : (s.setSt b).dt = s.dt := rfl
@[simp] theorem State.setSt_st (b : Byte) : (s.setSt b).st = b := rfl
@[simp] theorem State.setSt_mem (b : Byte) : (s.setSt b).mem = s.mem := rfl
@[simp] theorem State.setSt_fb (b : Byte) : (s.setSt b).fb = s.fb := rfl
@[simp] theorem State.setSt_keys (b : Byte) : (s.setSt b).keys = s.keys := rfl
@[simp] theorem State.setSt_wait (b : Byte) : (s.setSt b).wait = s.wait := rfl
@[simp] theorem State.setSt_keyEvent (b : Byte) : (s.setSt b).keyEvent = s.keyEvent := rfl
@[simp] theorem State.setSt_fault (b : Byte) : (s.setSt b).fault = s.fault := rfl
@[simp] theorem State.setSt_draws (b : Byte) : (s.setSt b).draws = s.draws := rfl

/-! ### setMem -/

@[simp] theorem State.setMem_v (m : Memory) : (s.setMem m).v = s.v := rfl
@[simp] theorem State.setMem_i (m : Memory) : (s.setMem m).i = s.i := rfl
@[simp] theorem State.setMem_pc (m : Memory) : (s.setMem m).pc = s.pc := rfl
@[simp] theorem State.setMem_sp (m : Memory) : (s.setMem m).sp = s.sp := rfl
@[simp] theorem State.setMem_stack (m : Memory) : (s.setMem m).stack = s.stack := rfl
@[simp] theorem State.setMem_dt (m : Memory) : (s.setMem m).dt = s.dt := rfl
@[simp] theorem State.setMem_st (m : Memory) : (s.setMem m).st = s.st := rfl
@[simp] theorem State.setMem_mem (m : Memory) : (s.setMem m).mem = m := rfl
@[simp] theorem State.setMem_fb (m : Memory) : (s.setMem m).fb = s.fb := rfl
@[simp] theorem State.setMem_keys (m : Memory) : (s.setMem m).keys = s.keys := rfl
@[simp] theorem State.setMem_wait (m : Memory) : (s.setMem m).wait = s.wait := rfl
@[simp] theorem State.setMem_keyEvent (m : Memory) : (s.setMem m).keyEvent = s.keyEvent := rfl
@[simp] theorem State.setMem_fault (m : Memory) : (s.setMem m).fault = s.fault := rfl
@[simp] theorem State.setMem_draws (m : Memory) : (s.setMem m).draws = s.draws := rfl

/-! ### setFb -/

@[simp] theorem State.setFb_v (fb : Framebuffer) : (s.setFb fb).v = s.v := rfl
@[simp] theorem State.setFb_i (fb : Framebuffer) : (s.setFb fb).i = s.i := rfl
@[simp] theorem State.setFb_pc (fb : Framebuffer) : (s.setFb fb).pc = s.pc := rfl
@[simp] theorem State.setFb_sp (fb : Framebuffer) : (s.setFb fb).sp = s.sp := rfl
@[simp] theorem State.setFb_stack (fb : Framebuffer) : (s.setFb fb).stack = s.stack := rfl
@[simp] theorem State.setFb_dt (fb : Framebuffer) : (s.setFb fb).dt = s.dt := rfl
@[simp] theorem State.setFb_st (fb : Framebuffer) : (s.setFb fb).st = s.st := rfl
@[simp] theorem State.setFb_mem (fb : Framebuffer) : (s.setFb fb).mem = s.mem := rfl
@[simp] theorem State.setFb_fb (fb : Framebuffer) : (s.setFb fb).fb = fb := rfl
@[simp] theorem State.setFb_keys (fb : Framebuffer) : (s.setFb fb).keys = s.keys := rfl
@[simp] theorem State.setFb_wait (fb : Framebuffer) : (s.setFb fb).wait = s.wait := rfl
@[simp] theorem State.setFb_keyEvent (fb : Framebuffer) : (s.setFb fb).keyEvent = s.keyEvent := rfl
@[simp] theorem State.setFb_fault (fb : Framebuffer) : (s.setFb fb).fault = s.fault := rfl
@[simp] theorem State.setFb_draws (fb : Framebuffer) : (s.setFb fb).draws = s.draws := rfl

/-! ### writeKey -/

@[simp] theorem State.writeKey_v (k : Nibble) (b : Bool) : (s.writeKey k b).v = s.v := rfl
@[simp] theorem State.writeKey_i (k : Nibble) (b : Bool) : (s.writeKey k b).i = s.i := rfl
@[simp] theorem State.writeKey_pc (k : Nibble) (b : Bool) : (s.writeKey k b).pc = s.pc := rfl
@[simp] theorem State.writeKey_sp (k : Nibble) (b : Bool) : (s.writeKey k b).sp = s.sp := rfl
@[simp] theorem State.writeKey_stack (k : Nibble) (b : Bool) : (s.writeKey k b).stack = s.stack := rfl
@[simp] theorem State.writeKey_dt (k : Nibble) (b : Bool) : (s.writeKey k b).dt = s.dt := rfl
@[simp] theorem State.writeKey_st (k : Nibble) (b : Bool) : (s.writeKey k b).st = s.st := rfl
@[simp] theorem State.writeKey_mem (k : Nibble) (b : Bool) : (s.writeKey k b).mem = s.mem := rfl
@[simp] theorem State.writeKey_fb (k : Nibble) (b : Bool) : (s.writeKey k b).fb = s.fb := rfl
@[simp] theorem State.writeKey_keys (k : Nibble) (b : Bool) : (s.writeKey k b).keys = s.keys.set k.toNat b := rfl
@[simp] theorem State.writeKey_wait (k : Nibble) (b : Bool) : (s.writeKey k b).wait = s.wait := rfl
@[simp] theorem State.writeKey_keyEvent (k : Nibble) (b : Bool) : (s.writeKey k b).keyEvent = s.keyEvent := rfl
@[simp] theorem State.writeKey_fault (k : Nibble) (b : Bool) : (s.writeKey k b).fault = s.fault := rfl
@[simp] theorem State.writeKey_draws (k : Nibble) (b : Bool) : (s.writeKey k b).draws = s.draws := rfl

/-! ### setWait -/

@[simp] theorem State.setWait_v (w : Option Nibble) : (s.setWait w).v = s.v := rfl
@[simp] theorem State.setWait_i (w : Option Nibble) : (s.setWait w).i = s.i := rfl
@[simp] theorem State.setWait_pc (w : Option Nibble) : (s.setWait w).pc = s.pc := rfl
@[simp] theorem State.setWait_sp (w : Option Nibble) : (s.setWait w).sp = s.sp := rfl
@[simp] theorem State.setWait_stack (w : Option Nibble) : (s.setWait w).stack = s.stack := rfl
@[simp] theorem State.setWait_dt (w : Option Nibble) : (s.setWait w).dt = s.dt := rfl
@[simp] theorem State.setWait_st (w : Option Nibble) : (s.setWait w).st = s.st := rfl
@[simp] theorem State.setWait_mem (w : Option Nibble) : (s.setWait w).mem = s.mem := rfl
@[simp] theorem State.setWait_fb (w : Option Nibble) : (s.setWait w).fb = s.fb := rfl
@[simp] theorem State.setWait_keys (w : Option Nibble) : (s.setWait w).keys = s.keys := rfl
@[simp] theorem State.setWait_wait (w : Option Nibble) : (s.setWait w).wait = w := rfl
@[simp] theorem State.setWait_keyEvent (w : Option Nibble) : (s.setWait w).keyEvent = s.keyEvent := rfl
@[simp] theorem State.setWait_fault (w : Option Nibble) : (s.setWait w).fault = s.fault := rfl
@[simp] theorem State.setWait_draws (w : Option Nibble) : (s.setWait w).draws = s.draws := rfl

/-! ### setKeyEvent -/

@[simp] theorem State.setKeyEvent_v (e : Option Nibble) : (s.setKeyEvent e).v = s.v := rfl
@[simp] theorem State.setKeyEvent_i (e : Option Nibble) : (s.setKeyEvent e).i = s.i := rfl
@[simp] theorem State.setKeyEvent_pc (e : Option Nibble) : (s.setKeyEvent e).pc = s.pc := rfl
@[simp] theorem State.setKeyEvent_sp (e : Option Nibble) : (s.setKeyEvent e).sp = s.sp := rfl
@[simp] theorem State.setKeyEvent_stack (e : Option Nibble) : (s.setKeyEvent e).stack = s.stack := rfl
@[simp] theorem State.setKeyEvent_dt (e : Option Nibble) : (s.setKeyEvent e).dt = s.dt := rfl
@[simp] theorem State.setKeyEvent_st (e : Option Nibble) : (s.setKeyEvent e).st = s.st := rfl
@[simp] theorem State.setKeyEvent_mem (e : Option Nibble) : (s.setKeyEvent e).mem = s.mem := rfl
@[simp] theorem State.setKeyEvent_fb (e : Option Nibble) : (s.setKeyEvent e).fb = s.fb := rfl
@[simp] theorem State.setKeyEvent_keys (e : Option Nibble) : (s.setKeyEvent e).keys = s.keys := rfl
@[simp] theorem State.setKeyEvent_wait (e : Option Nibble) : (s.setKeyEvent e).wait = s.wait := rfl
@[simp] theorem State.setKeyEvent_keyEvent (e : Option Nibble) : (s.setKeyEvent e).keyEvent = e := rfl
@[simp] theorem State.setKeyEvent_fault (e : Option Nibble) : (s.setKeyEvent e).fault = s.fault := rfl
@[simp] theorem State.setKeyEvent_draws (e : Option Nibble) : (s.setKeyEvent e).draws = s.draws := rfl

/-! ### setFault -/

@[simp] theorem State.setFault_v (f : FaultCode) : (s.setFault f).v = s.v := rfl
@[simp] theorem State.setFault_i (f : FaultCode) : (s.setFault f).i = s.i := rfl
@[simp] theorem State.setFault_pc (f : FaultCode) : (s.setFault f).pc = s.pc := rfl
@[simp] theorem State.setFault_sp (f : FaultCode) : (s.setFault f).sp = s.sp := rfl
@[simp] theorem State.setFault_stack (f : FaultCode) : (s.setFault f).stack = s.stack := rfl
@[simp] theorem State.setFault_dt (f : FaultCode) : (s.setFault f).dt = s.dt := rfl
@[simp] theorem State.setFault_st (f : FaultCode) : (s.setFault f).st = s.st := rfl
@[simp] theorem State.setFault_mem (f : FaultCode) : (s.setFault f).mem = s.mem := rfl
@[simp] theorem State.setFault_fb (f : FaultCode) : (s.setFault f).fb = s.fb := rfl
@[simp] theorem State.setFault_keys (f : FaultCode) : (s.setFault f).keys = s.keys := rfl
@[simp] theorem State.setFault_wait (f : FaultCode) : (s.setFault f).wait = s.wait := rfl
@[simp] theorem State.setFault_keyEvent (f : FaultCode) : (s.setFault f).keyEvent = s.keyEvent := rfl
@[simp] theorem State.setFault_fault (f : FaultCode) : (s.setFault f).fault = f := rfl
@[simp] theorem State.setFault_draws (f : FaultCode) : (s.setFault f).draws = s.draws := rfl

/-! ### setDraws -/

@[simp] theorem State.setDraws_v (n : Nat) : (s.setDraws n).v = s.v := rfl
@[simp] theorem State.setDraws_i (n : Nat) : (s.setDraws n).i = s.i := rfl
@[simp] theorem State.setDraws_pc (n : Nat) : (s.setDraws n).pc = s.pc := rfl
@[simp] theorem State.setDraws_sp (n : Nat) : (s.setDraws n).sp = s.sp := rfl
@[simp] theorem State.setDraws_stack (n : Nat) : (s.setDraws n).stack = s.stack := rfl
@[simp] theorem State.setDraws_dt (n : Nat) : (s.setDraws n).dt = s.dt := rfl
@[simp] theorem State.setDraws_st (n : Nat) : (s.setDraws n).st = s.st := rfl
@[simp] theorem State.setDraws_mem (n : Nat) : (s.setDraws n).mem = s.mem := rfl
@[simp] theorem State.setDraws_fb (n : Nat) : (s.setDraws n).fb = s.fb := rfl
@[simp] theorem State.setDraws_keys (n : Nat) : (s.setDraws n).keys = s.keys := rfl
@[simp] theorem State.setDraws_wait (n : Nat) : (s.setDraws n).wait = s.wait := rfl
@[simp] theorem State.setDraws_keyEvent (n : Nat) : (s.setDraws n).keyEvent = s.keyEvent := rfl
@[simp] theorem State.setDraws_fault (n : Nat) : (s.setDraws n).fault = s.fault := rfl
@[simp] theorem State.setDraws_draws (n : Nat) : (s.setDraws n).draws = n := rfl

/-! ### advance -/

@[simp] theorem State.advance_v : s.advance.v = s.v := rfl
@[simp] theorem State.advance_i : s.advance.i = s.i := rfl
@[simp] theorem State.advance_pc : s.advance.pc = s.pc + 2 := rfl
@[simp] theorem State.advance_sp : s.advance.sp = s.sp := rfl
@[simp] theorem State.advance_stack : s.advance.stack = s.stack := rfl
@[simp] theorem State.advance_dt : s.advance.dt = s.dt := rfl
@[simp] theorem State.advance_st : s.advance.st = s.st := rfl
@[simp] theorem State.advance_mem : s.advance.mem = s.mem := rfl
@[simp] theorem State.advance_fb : s.advance.fb = s.fb := rfl
@[simp] theorem State.advance_keys : s.advance.keys = s.keys := rfl
@[simp] theorem State.advance_wait : s.advance.wait = s.wait := rfl
@[simp] theorem State.advance_keyEvent : s.advance.keyEvent = s.keyEvent := rfl
@[simp] theorem State.advance_fault : s.advance.fault = s.fault := rfl
@[simp] theorem State.advance_draws : s.advance.draws = s.draws := rfl

/-! ### skipIf -/

@[simp] theorem State.skipIf_v (c : Bool) : (s.skipIf c).v = s.v := rfl
@[simp] theorem State.skipIf_i (c : Bool) : (s.skipIf c).i = s.i := rfl
@[simp] theorem State.skipIf_pc (c : Bool) : (s.skipIf c).pc = if c then s.pc + 4 else s.pc + 2 := rfl
@[simp] theorem State.skipIf_sp (c : Bool) : (s.skipIf c).sp = s.sp := rfl
@[simp] theorem State.skipIf_stack (c : Bool) : (s.skipIf c).stack = s.stack := rfl
@[simp] theorem State.skipIf_dt (c : Bool) : (s.skipIf c).dt = s.dt := rfl
@[simp] theorem State.skipIf_st (c : Bool) : (s.skipIf c).st = s.st := rfl
@[simp] theorem State.skipIf_mem (c : Bool) : (s.skipIf c).mem = s.mem := rfl
@[simp] theorem State.skipIf_fb (c : Bool) : (s.skipIf c).fb = s.fb := rfl
@[simp] theorem State.skipIf_keys (c : Bool) : (s.skipIf c).keys = s.keys := rfl
@[simp] theorem State.skipIf_wait (c : Bool) : (s.skipIf c).wait = s.wait := rfl
@[simp] theorem State.skipIf_keyEvent (c : Bool) : (s.skipIf c).keyEvent = s.keyEvent := rfl
@[simp] theorem State.skipIf_fault (c : Bool) : (s.skipIf c).fault = s.fault := rfl
@[simp] theorem State.skipIf_draws (c : Bool) : (s.skipIf c).draws = s.draws := rfl

/-! ### Register file, stack and keys: a read after a write -/

/-- A register reads back what was written; every other register keeps its value. -/
theorem State.readV_writeV (x y : Nibble) (b : Byte) : (s.writeV x b).readV y = if y = x then b else s.readV y := by
  by_cases h : y = x
  · subst h; simp [State.readV]
  · have : x.toNat ≠ y.toNat := fun e => h (BitVec.eq_of_toNat_eq e.symm)
    simp [State.readV, h, this]

@[simp] theorem State.readV_writeV_self (x : Nibble) (b : Byte) : (s.writeV x b).readV x = b := by
  simp [State.readV_writeV]

/-- A slot reads back what was written; every other slot keeps its value. -/
theorem State.readStack_writeStack (j k : Nibble) (w : Word) :
    (s.writeStack j w).readStack k = if k = j then w else s.readStack k := by
  by_cases h : k = j
  · subst h; simp [State.readStack]
  · have : j.toNat ≠ k.toNat := fun e => h (BitVec.eq_of_toNat_eq e.symm)
    simp [State.readStack, h, this]

/-- A key reads back what was written; every other key keeps its state. -/
theorem State.readKey_writeKey (j k : Nibble) (b : Bool) : (s.writeKey j b).readKey k = if k = j then b else s.readKey k := by
  by_cases h : k = j
  · subst h; simp [State.readKey]
  · have : j.toNat ≠ k.toNat := fun e => h (BitVec.eq_of_toNat_eq e.symm)
    simp [State.readKey, h, this]

@[simp] theorem State.setI_readV (w : Word) (r : Nibble) : (s.setI w).readV r = s.readV r := rfl
@[simp] theorem State.setPc_readV (w : Word) (r : Nibble) : (s.setPc w).readV r = s.readV r := rfl
@[simp] theorem State.setSp_readV (p : Nibble) (r : Nibble) : (s.setSp p).readV r = s.readV r := rfl
@[simp] theorem State.writeStack_readV (j : Nibble) (w : Word) (r : Nibble) : (s.writeStack j w).readV r = s.readV r := rfl
@[simp] theorem State.setDt_readV (b : Byte) (r : Nibble) : (s.setDt b).readV r = s.readV r := rfl
@[simp] theorem State.setSt_readV (b : Byte) (r : Nibble) : (s.setSt b).readV r = s.readV r := rfl
@[simp] theorem State.setMem_readV (m : Memory) (r : Nibble) : (s.setMem m).readV r = s.readV r := rfl
@[simp] theorem State.setFb_readV (fb : Framebuffer) (r : Nibble) : (s.setFb fb).readV r = s.readV r := rfl
@[simp] theorem State.writeKey_readV (k : Nibble) (b : Bool) (r : Nibble) : (s.writeKey k b).readV r = s.readV r := rfl
@[simp] theorem State.setWait_readV (w : Option Nibble) (r : Nibble) : (s.setWait w).readV r = s.readV r := rfl
@[simp] theorem State.setKeyEvent_readV (e : Option Nibble) (r : Nibble) : (s.setKeyEvent e).readV r = s.readV r := rfl
@[simp] theorem State.setFault_readV (f : FaultCode) (r : Nibble) : (s.setFault f).readV r = s.readV r := rfl
@[simp] theorem State.setDraws_readV (n : Nat) (r : Nibble) : (s.setDraws n).readV r = s.readV r := rfl
@[simp] theorem State.advance_readV (r : Nibble) : s.advance.readV r = s.readV r := rfl
@[simp] theorem State.skipIf_readV (c : Bool) (r : Nibble) : (s.skipIf c).readV r = s.readV r := rfl

@[simp] theorem State.writeV_readStack (x : Nibble) (b : Byte) (r : Nibble) : (s.writeV x b).readStack r = s.readStack r := rfl
@[simp] theorem State.setV_readStack (v : Vector Byte 16) (r : Nibble) : (s.setV v).readStack r = s.readStack r := rfl
@[simp] theorem State.setI_readStack (w : Word) (r : Nibble) : (s.setI w).readStack r = s.readStack r := rfl
@[simp] theorem State.setPc_readStack (w : Word) (r : Nibble) : (s.setPc w).readStack r = s.readStack r := rfl
@[simp] theorem State.setSp_readStack (p : Nibble) (r : Nibble) : (s.setSp p).readStack r = s.readStack r := rfl
@[simp] theorem State.setDt_readStack (b : Byte) (r : Nibble) : (s.setDt b).readStack r = s.readStack r := rfl
@[simp] theorem State.setSt_readStack (b : Byte) (r : Nibble) : (s.setSt b).readStack r = s.readStack r := rfl
@[simp] theorem State.setMem_readStack (m : Memory) (r : Nibble) : (s.setMem m).readStack r = s.readStack r := rfl
@[simp] theorem State.setFb_readStack (fb : Framebuffer) (r : Nibble) : (s.setFb fb).readStack r = s.readStack r := rfl
@[simp] theorem State.writeKey_readStack (k : Nibble) (b : Bool) (r : Nibble) : (s.writeKey k b).readStack r = s.readStack r := rfl
@[simp] theorem State.setWait_readStack (w : Option Nibble) (r : Nibble) : (s.setWait w).readStack r = s.readStack r := rfl
@[simp] theorem State.setKeyEvent_readStack (e : Option Nibble) (r : Nibble) : (s.setKeyEvent e).readStack r = s.readStack r := rfl
@[simp] theorem State.setFault_readStack (f : FaultCode) (r : Nibble) : (s.setFault f).readStack r = s.readStack r := rfl
@[simp] theorem State.setDraws_readStack (n : Nat) (r : Nibble) : (s.setDraws n).readStack r = s.readStack r := rfl
@[simp] theorem State.advance_readStack (r : Nibble) : s.advance.readStack r = s.readStack r := rfl
@[simp] theorem State.skipIf_readStack (c : Bool) (r : Nibble) : (s.skipIf c).readStack r = s.readStack r := rfl

@[simp] theorem State.writeV_readKey (x : Nibble) (b : Byte) (r : Nibble) : (s.writeV x b).readKey r = s.readKey r := rfl
@[simp] theorem State.setV_readKey (v : Vector Byte 16) (r : Nibble) : (s.setV v).readKey r = s.readKey r := rfl
@[simp] theorem State.setI_readKey (w : Word) (r : Nibble) : (s.setI w).readKey r = s.readKey r := rfl
@[simp] theorem State.setPc_readKey (w : Word) (r : Nibble) : (s.setPc w).readKey r = s.readKey r := rfl
@[simp] theorem State.setSp_readKey (p : Nibble) (r : Nibble) : (s.setSp p).readKey r = s.readKey r := rfl
@[simp] theorem State.writeStack_readKey (j : Nibble) (w : Word) (r : Nibble) : (s.writeStack j w).readKey r = s.readKey r := rfl
@[simp] theorem State.setDt_readKey (b : Byte) (r : Nibble) : (s.setDt b).readKey r = s.readKey r := rfl
@[simp] theorem State.setSt_readKey (b : Byte) (r : Nibble) : (s.setSt b).readKey r = s.readKey r := rfl
@[simp] theorem State.setMem_readKey (m : Memory) (r : Nibble) : (s.setMem m).readKey r = s.readKey r := rfl
@[simp] theorem State.setFb_readKey (fb : Framebuffer) (r : Nibble) : (s.setFb fb).readKey r = s.readKey r := rfl
@[simp] theorem State.setWait_readKey (w : Option Nibble) (r : Nibble) : (s.setWait w).readKey r = s.readKey r := rfl
@[simp] theorem State.setKeyEvent_readKey (e : Option Nibble) (r : Nibble) : (s.setKeyEvent e).readKey r = s.readKey r := rfl
@[simp] theorem State.setFault_readKey (f : FaultCode) (r : Nibble) : (s.setFault f).readKey r = s.readKey r := rfl
@[simp] theorem State.setDraws_readKey (n : Nat) (r : Nibble) : (s.setDraws n).readKey r = s.readKey r := rfl
@[simp] theorem State.advance_readKey (r : Nibble) : s.advance.readKey r = s.readKey r := rfl
@[simp] theorem State.skipIf_readKey (c : Bool) (r : Nibble) : (s.skipIf c).readKey r = s.readKey r := rfl

/-- Two states with the same registers, read one by one, have the same register file. -/
theorem State.v_ext {s t : State} (h : ∀ r : Nibble, s.readV r = t.readV r) : s.v = t.v := by
  apply Vector.ext
  intro k hk
  have := h (BitVec.ofNat 4 k)
  simpa [State.readV, Nat.mod_eq_of_lt hk] using this

/-- Writing back the value a register holds changes nothing. -/
@[simp] theorem State.writeV_readV (x : Nibble) : s.writeV x (s.readV x) = s := by
  simp [State.writeV, State.readV]

end Sys2Proof.Machine
end

