-- ==== Sys2Proof/Laws/Ops.lean ====
section
/-! SUPPORT. What each shared operation does, said once: taking a fault, the stack, the range-checked accesses, register blocks, flags,
pixels and one plotted bit. -/

namespace Sys2Proof.Machine

/-! ### Taking a fault -/

/-- A fault is a next state that differs in FAULT only (R272). -/
theorem raise_eq (f : FaultCode) (s : State) : raise f s = .next { s with fault := f } := rfl

/-! ### The stack -/

/-- A push moves SP up and writes the slot it then names (R30). -/
theorem State.push_eq (s : State) (w : Word) :
    s.push w = { s with sp := s.sp + 1, stack := s.stack.set (s.sp + 1).toNat w } := rfl

/-! ### Range-checked memory -/

/-- The range check, as one bound. -/
theorem inMemory_iff (addr len : Nat) : inMemory addr len = true ↔ len = 0 ∨ addr + len ≤ Config.memSize := by
  simp only [inMemory, Config.memSize, decide_eq_true_eq]
  omega

/-- A checked read inside memory gives the bytes. -/
theorem State.memRead_of_inMemory {s : State} {addr n : Nat} (h : n = 0 ∨ addr + n ≤ Config.memSize) :
    s.memRead addr n = some (Memory.readBytes s.mem addr n) := by
  rw [State.memRead, if_pos ((inMemory_iff _ _).2 h)]

/-- A checked read outside memory raises MemRange. -/
theorem State.memRead_of_not_inMemory {s : State} {addr n : Nat} (h : ¬ (n = 0 ∨ addr + n ≤ Config.memSize)) :
    s.memRead addr n = none := by
  rw [State.memRead, if_neg (fun e => h ((inMemory_iff _ _).1 e))]

/-- A checked write inside memory stores the run. -/
theorem State.memWrite_of_inMemory {s : State} {addr : Nat} {bs : List Byte} (h : bs.length = 0 ∨ addr + bs.length ≤ Config.memSize) :
    s.memWrite addr bs = some (s.setMem (Memory.writeBytes s.mem addr bs)) := by
  rw [State.memWrite, if_pos ((inMemory_iff _ _).2 h)]

/-- A checked write outside memory raises MemRange. -/
theorem State.memWrite_of_not_inMemory {s : State} {addr : Nat} {bs : List Byte}
    (h : ¬ (bs.length = 0 ∨ addr + bs.length ≤ Config.memSize)) : s.memWrite addr bs = none := by
  rw [State.memWrite, if_neg (fun e => h ((inMemory_iff _ _).1 e))]

/-- Everything a checked write can do: nothing, or store the run into memory and keep the canonical form. -/
theorem State.memWrite_cases {s : State} {addr : Nat} {bs : List Byte} :
    s.memWrite addr bs = none
      ∨ s.memWrite addr bs = some (s.setMem (Memory.writeBytes s.mem addr bs))
        ∧ (Memory.wf s.mem = true → Memory.wf (Memory.writeBytes s.mem addr bs) = true) := by
  by_cases h : bs.length = 0 ∨ addr + bs.length ≤ Config.memSize
  · exact .inr ⟨State.memWrite_of_inMemory h, Memory.wf_writeBytes bs (by simpa using h)⟩
  · exact .inl (State.memWrite_of_not_inMemory h)

/-! ### Register blocks and digits -/

@[simp] theorem length_regBlock (s : State) (x : Nibble) : (regBlock s x).length = x.toNat + 1 := by
  have := x.isLt
  simp [regBlock]; omega

/-- Byte `j` of a register block is `V[j]`. -/
theorem getD_regBlock (s : State) (x j : Nibble) (h : j.toNat ≤ x.toNat) : (regBlock s x).getD j.toNat 0 = s.readV j := by
  have := j.isLt
  rw [regBlock, List.getD_eq_getElem _ _ (by simp; omega)]
  simp [State.readV]

@[simp] theorem length_bcdDigits (b : Byte) : (bcdDigits b).length = 3 := by simp [bcdDigits]

/-- The registers after a block load: the bytes up to `x`, the old values above. -/
theorem getElem_loadBlock (s : State) (x j : Nibble) (bytes : List Byte) :
    (loadBlock s x bytes)[j.toNat] = if j.toNat ≤ x.toNat then bytes.getD j.toNat 0 else s.readV j := by
  simp [loadBlock, State.readV]

/-! ### Flags -/

/-- A flag byte is 0 or 1 (R21). -/
theorem flagByte_cases (f : Bool) : flagByte f = 0 ∨ flagByte f = 1 := by cases f <;> simp [flagByte]

/-- Where the flag goes and where the result goes (R22, R171). -/
theorem State.writeResultFlag_readV (s : State) (x k : Nibble) (r : Byte) (f : Bool) :
    (s.writeResultFlag x r f).readV k = if k = 15 then flagByte f else if k = x then r else s.readV k := by
  simp [State.writeResultFlag, State.readV_writeV]

/-! ### Pixels -/

/-- A pixel reads back what was set; every other pixel keeps its state. -/
theorem Framebuffer.pixel_setPixel (fb : Framebuffer) (r c r' c' : Nat) (b : Bool) :
    Framebuffer.pixel (Framebuffer.setPixel fb r c b) r' c'
      = if r' % 32 = r % 32 ∧ c' % 64 = c % 64 then b else Framebuffer.pixel fb r' c' := by
  simp only [Framebuffer.pixel, Framebuffer.setPixel]
  by_cases hr : r' % 32 = r % 32
  · by_cases hc : c' % 64 = c % 64
    · simp [hr, hc]
    · simp only [hr, hc, and_false, if_false]
      simp [Ne.symm hc]
  · simp only [hr, false_and, if_false]
    simp [Ne.symm hr]

/-- Coordinates inside the display name their own pixel. -/
theorem Framebuffer.pixel_of_lt (fb : Framebuffer) {r c : Nat} (hr : r < 32) (hc : c < 64) :
    Framebuffer.pixel fb r c = fb[r][c] := by
  simp [Framebuffer.pixel, Nat.mod_eq_of_lt hr, Nat.mod_eq_of_lt hc]

/-- Two displays with the same pixels are the same. -/
theorem Framebuffer.ext_pixel {fb fb' : Framebuffer} (h : ∀ r c, Framebuffer.pixel fb r c = Framebuffer.pixel fb' r c) : fb = fb' := by
  apply Vector.ext
  intro r hr
  apply Vector.ext
  intro c hc
  simpa [Framebuffer.pixel_of_lt, hr, hc] using h r c

/-- One plotted bit: the pixel it hits is XORed, every other keeps its state. -/
theorem plotBit_pixel (cv : Canvas) (r c r' c' : Nat) (bit : Bool) :
    Framebuffer.pixel (plotBit cv r c bit).fb r' c'
      = (Framebuffer.pixel cv.fb r' c' ^^ (decide (r' % 32 = r % 32 ∧ c' % 64 = c % 64) && bit)) := by
  simp only [plotBit, Framebuffer.pixel_setPixel]
  by_cases h : r' % 32 = r % 32 ∧ c' % 64 = c % 64
  · simp [h, Framebuffer.pixel]
  · simp [h]

/-- One plotted bit: the collision flag is kept, and raised where a set pixel meets a set bit. -/
theorem plotBit_hit (cv : Canvas) (r c : Nat) (bit : Bool) :
    (plotBit cv r c bit).hit = (cv.hit || (Framebuffer.pixel cv.fb r c && bit)) := rfl

end Sys2Proof.Machine
end

