-- ==== Sys2Proof/Laws/Exec.lean ====
section
/-! SUPPORT. The instructions that can fault, each by its two cases: inside its condition, and outside it. -/

namespace Sys2Proof.Machine

variable {s : State} {x y n : Nibble} {addr : Addr}

/-- RET with a pending call (R140). -/
theorem exec_ret_of_pending (h : s.sp ≠ 0) : exec .ret s = .next ((s.setPc (s.readStack s.sp)).setSp (s.sp - 1)) := by
  simp only [exec, execRet, if_neg h]

/-- RET with none. -/
theorem exec_ret_of_empty (h : s.sp = 0) : exec .ret s = .next (s.setFault .stackUnderflow) := by
  simp only [exec, execRet, if_pos h, raise]

/-- CALL below depth 15 (R146). -/
theorem exec_call_of_room (h : s.sp ≠ 15) : exec (.call addr) s = .next ((s.push (s.pc + 2)).setPc (zextAddr addr)) := by
  simp only [exec, execCall, if_neg h]

/-- CALL at depth 15. -/
theorem exec_call_of_full (h : s.sp = 15) : exec (.call addr) s = .next (s.setFault .stackOverflow) := by
  simp only [exec, execCall, if_pos h, raise]

/-- DRW whose sprite lies inside memory (R212). -/
theorem exec_drw_of_inMemory (h : n.toNat = 0 ∨ s.i.toNat + n.toNat ≤ Config.memSize) :
    exec (.drwVxVyN x y n) s = .next (((s.setFb (plotSprite ⟨s.fb, false⟩ (s.readV x).toNat (s.readV y).toNat
          (Memory.readBytes s.mem s.i.toNat n.toNat)).fb).writeV 15
        (flagByte (plotSprite ⟨s.fb, false⟩ (s.readV x).toNat (s.readV y).toNat
          (Memory.readBytes s.mem s.i.toNat n.toNat)).hit)).advance) := by
  simp only [exec, execDrwVxVyN, State.memRead_of_inMemory h]

/-- DRW whose sprite leaves memory. -/
theorem exec_drw_of_not_inMemory (h : ¬ (n.toNat = 0 ∨ s.i.toNat + n.toNat ≤ Config.memSize)) :
    exec (.drwVxVyN x y n) s = .next (s.setFault .memRange) := by
  simp only [exec, execDrwVxVyN, State.memRead_of_not_inMemory h, raise]

/-- LD B, Vx inside memory (R196). -/
theorem exec_ldBVx_of_inMemory (h : s.i.toNat + 3 ≤ Config.memSize) :
    exec (.ldBVx x) s = .next (s.setMem (Memory.writeBytes s.mem s.i.toNat (bcdDigits (s.readV x)))).advance := by
  simp only [exec, execLdBVx, State.memWrite_of_inMemory (bs := bcdDigits (s.readV x)) (.inr (by simpa using h))]

/-- LD B, Vx outside memory. -/
theorem exec_ldBVx_of_not_inMemory (h : ¬ s.i.toNat + 3 ≤ Config.memSize) :
    exec (.ldBVx x) s = .next (s.setFault .memRange) := by
  simp only [exec, execLdBVx, State.memWrite_of_not_inMemory (bs := bcdDigits (s.readV x)) (by simpa using h), raise]

/-- LD [I], Vx inside memory (R198). -/
theorem exec_ldMemVx_of_inMemory (h : s.i.toNat + (x.toNat + 1) ≤ Config.memSize) :
    exec (.ldMemVx x) s = .next (s.setMem (Memory.writeBytes s.mem s.i.toNat (regBlock s x))).advance := by
  simp only [exec, execLdMemVx, State.memWrite_of_inMemory (bs := regBlock s x) (.inr (by simpa using h))]

/-- LD [I], Vx outside memory. -/
theorem exec_ldMemVx_of_not_inMemory (h : ¬ s.i.toNat + (x.toNat + 1) ≤ Config.memSize) :
    exec (.ldMemVx x) s = .next (s.setFault .memRange) := by
  simp only [exec, execLdMemVx, State.memWrite_of_not_inMemory (bs := regBlock s x) (by simpa using h), raise]

/-- LD Vx, [I] inside memory (R200). -/
theorem exec_ldVxMem_of_inMemory (h : s.i.toNat + (x.toNat + 1) ≤ Config.memSize) :
    exec (.ldVxMem x) s = .next (s.setV (loadBlock s x (Memory.readBytes s.mem s.i.toNat (x.toNat + 1)))).advance := by
  simp only [exec, execLdVxMem, State.memRead_of_inMemory (.inr h)]

/-- LD Vx, [I] outside memory. -/
theorem exec_ldVxMem_of_not_inMemory (h : ¬ s.i.toNat + (x.toNat + 1) ≤ Config.memSize) :
    exec (.ldVxMem x) s = .next (s.setFault .memRange) := by
  simp only [exec, execLdVxMem, State.memRead_of_not_inMemory (n := x.toNat + 1) (by simpa using h), raise]

end Sys2Proof.Machine
end

