-- ==== Sys2Proof/Laws/PerInstr.lean ====
section
/-! SUPPORT. Statements about every instruction as syntax, one lemma per constructor. EncodingRow: the encoder and the opcode map of
R96 agree row by row. -/

namespace Sys2Proof.Laws

/-- The place of an instruction's row in the opcode map of R96, counted from 0; 35, after the last row, for `UNKNOWN`. -/
def EncodingRow.number : Instr → Nat
  | .cls => 0
  | .ret => 1
  | .sys _ => 2
  | .jp _ => 3
  | .call _ => 4
  | .seVxByte _ _ => 5
  | .sneVxByte _ _ => 6
  | .seVxVy _ _ => 7
  | .ldVxByte _ _ => 8
  | .addVxByte _ _ => 9
  | .sneVxVy _ _ => 10
  | .ldIAddr _ => 11
  | .jpV0Addr _ => 12
  | .rndVxByte _ _ => 13
  | .drwVxVyN _ _ _ => 14
  | .ldVxVy _ _ => 15
  | .orVxVy _ _ => 16
  | .andVxVy _ _ => 17
  | .xorVxVy _ _ => 18
  | .addVxVy _ _ => 19
  | .subVxVy _ _ => 20
  | .shrVx _ => 21
  | .subnVxVy _ _ => 22
  | .shlVx _ => 23
  | .skpVx _ => 24
  | .sknpVx _ => 25
  | .ldVxDt _ => 26
  | .ldVxK _ => 27
  | .ldDtVx _ => 28
  | .ldStVx _ => 29
  | .addIVx _ => 30
  | .ldFVx _ => 31
  | .ldBVx _ => 32
  | .ldMemVx _ => 33
  | .ldVxMem _ => 34
  | .unknown _ => 35

/-- The word of an instruction matches the instruction's own row, and the row's fields are read back from it as they went in;
`UNKNOWN` has no row and is its own word. -/
def EncodingRow.Statement (i : Instr) : Prop :=
  match opcodeMap[EncodingRow.number i]? with
  | some r => encode i &&& r.mask = r.pattern ∧ r.build (encode i) = i
  | none => ∃ op, i = .unknown op ∧ encode i = op

/-! ### The fields of a placed word -/

/-- A word that has no bit in common with a mask is zero where the mask is set. -/
theorem bit_of_disjoint {k m : Word} (h : k &&& m = 0#16) (i : Nat) (hi : i < 16) (hm : m[i] = true) : k[i] = false := by
  have := congrArg (fun w : Word => w[i]) h
  simpa [hm] using this

/-- Placing a field outside the mask keeps a pattern's match. -/
theorem mask_place {w m f p k : Word} (hk : w &&& m = k) (hm : m &&& f = 0#16) (hp : p &&& f = p) : (w ||| p) &&& m = k := by
  rw [← hp, BitVec.and_or_distrib_right, hk, BitVec.and_assoc, BitVec.and_comm f m, hm]; simp

theorem placeAddr_and (addr : Addr) : placeAddr addr &&& 0x0FFF#16 = placeAddr addr := by
  apply BitVec.eq_of_getElem_eq; intro i hi; interval_cases i <;> simp [placeAddr]

theorem placeX_and (x : Nibble) : placeX x &&& 0x0F00#16 = placeX x := by
  apply BitVec.eq_of_getElem_eq; intro i hi; interval_cases i <;> simp [placeX]

theorem placeY_and (y : Nibble) : placeY y &&& 0x00F0#16 = placeY y := by
  apply BitVec.eq_of_getElem_eq; intro i hi; interval_cases i <;> simp [placeY]

theorem placeN_and (n : Nibble) : placeN n &&& 0x000F#16 = placeN n := by
  apply BitVec.eq_of_getElem_eq; intro i hi; interval_cases i <;> simp [placeN]

theorem placeB_and (b : Byte) : placeB b &&& 0x00FF#16 = placeB b := by
  apply BitVec.eq_of_getElem_eq; intro i hi; interval_cases i <;> simp [placeB]

/-- `addr` is read back from a pattern that leaves its bits zero. -/
theorem opAddr_place {k : Word} (hk : k &&& 0x0FFF#16 = 0#16) (addr : Addr) : opAddr (k ||| placeAddr addr) = addr := by
  have z := bit_of_disjoint hk
  apply BitVec.eq_of_getElem_eq; intro i hi; interval_cases i <;> simp [opAddr, placeAddr, z]

/-- `x` is read back from a pattern that leaves its bits zero. -/
theorem opX_place {k : Word} (hk : k &&& 0x0F00#16 = 0#16) (x : Nibble) : opX (k ||| placeX x) = x := by
  have z := bit_of_disjoint hk
  apply BitVec.eq_of_getElem_eq; intro i hi; interval_cases i <;> simp [opX, placeX, z]

/-- `x` and `b` are read back from a pattern that leaves their bits zero. -/
theorem fields_xb {k : Word} (hk : k &&& 0x0FFF#16 = 0#16) (x : Nibble) (b : Byte) :
    opX (k ||| placeX x ||| placeB b) = x ∧ opB (k ||| placeX x ||| placeB b) = b := by
  have z := bit_of_disjoint hk
  constructor <;> apply BitVec.eq_of_getElem_eq <;> intro i hi <;> interval_cases i <;> simp [opX, opB, placeX, placeB, z]

/-- `x` and `y` are read back from a pattern that leaves their bits zero. -/
theorem fields_xy {k : Word} (hk : k &&& 0x0FF0#16 = 0#16) (x y : Nibble) :
    opX (k ||| placeX x ||| placeY y) = x ∧ opY (k ||| placeX x ||| placeY y) = y := by
  have z := bit_of_disjoint hk
  constructor <;> apply BitVec.eq_of_getElem_eq <;> intro i hi <;> interval_cases i <;> simp [opX, opY, placeX, placeY, z]

/-- `x`, `y` and `n` are read back from a pattern that leaves their bits zero. -/
theorem fields_xyn {k : Word} (hk : k &&& 0x0FFF#16 = 0#16) (x y n : Nibble) :
    opX (k ||| placeX x ||| placeY y ||| placeN n) = x ∧ opY (k ||| placeX x ||| placeY y ||| placeN n) = y
      ∧ opN (k ||| placeX x ||| placeY y ||| placeN n) = n := by
  have z := bit_of_disjoint hk
  refine ⟨?_, ?_, ?_⟩ <;> apply BitVec.eq_of_getElem_eq <;> intro i hi <;> interval_cases i <;>
    simp [opX, opY, opN, placeX, placeY, placeN, z]

/-! ### One lemma per constructor -/

namespace EncodingRow

theorem cls : Statement .cls := ⟨by decide, rfl⟩

theorem ret : Statement .ret := ⟨by decide, rfl⟩

theorem sys (addr : Addr) : Statement (.sys addr) :=
  ⟨mask_place (by decide) (by decide) (placeAddr_and addr), congrArg Instr.sys (opAddr_place (by decide) addr)⟩

theorem jp (addr : Addr) : Statement (.jp addr) :=
  ⟨mask_place (by decide) (by decide) (placeAddr_and addr), congrArg Instr.jp (opAddr_place (by decide) addr)⟩

theorem call (addr : Addr) : Statement (.call addr) :=
  ⟨mask_place (by decide) (by decide) (placeAddr_and addr), congrArg Instr.call (opAddr_place (by decide) addr)⟩

theorem seVxByte (x : Nibble) (b : Byte) : Statement (.seVxByte x b) :=
  ⟨mask_place (mask_place (by decide) (by decide) (placeX_and x)) (by decide) (placeB_and b),
    congrArg₂ Instr.seVxByte (fields_xb (by decide) x b).1 (fields_xb (by decide) x b).2⟩

theorem sneVxByte (x : Nibble) (b : Byte) : Statement (.sneVxByte x b) :=
  ⟨mask_place (mask_place (by decide) (by decide) (placeX_and x)) (by decide) (placeB_and b),
    congrArg₂ Instr.sneVxByte (fields_xb (by decide) x b).1 (fields_xb (by decide) x b).2⟩

theorem seVxVy (x y : Nibble) : Statement (.seVxVy x y) :=
  ⟨mask_place (mask_place (by decide) (by decide) (placeX_and x)) (by decide) (placeY_and y),
    congrArg₂ Instr.seVxVy (fields_xy (by decide) x y).1 (fields_xy (by decide) x y).2⟩

theorem ldVxByte (x : Nibble) (b : Byte) : Statement (.ldVxByte x b) :=
  ⟨mask_place (mask_place (by decide) (by decide) (placeX_and x)) (by decide) (placeB_and b),
    congrArg₂ Instr.ldVxByte (fields_xb (by decide) x b).1 (fields_xb (by decide) x b).2⟩

theorem addVxByte (x : Nibble) (b : Byte) : Statement (.addVxByte x b) :=
  ⟨mask_place (mask_place (by decide) (by decide) (placeX_and x)) (by decide) (placeB_and b),
    congrArg₂ Instr.addVxByte (fields_xb (by decide) x b).1 (fields_xb (by decide) x b).2⟩

theorem sneVxVy (x y : Nibble) : Statement (.sneVxVy x y) :=
  ⟨mask_place (mask_place (by decide) (by decide) (placeX_and x)) (by decide) (placeY_and y),
    congrArg₂ Instr.sneVxVy (fields_xy (by decide) x y).1 (fields_xy (by decide) x y).2⟩

theorem ldIAddr (addr : Addr) : Statement (.ldIAddr addr) :=
  ⟨mask_place (by decide) (by decide) (placeAddr_and addr), congrArg Instr.ldIAddr (opAddr_place (by decide) addr)⟩

theorem jpV0Addr (addr : Addr) : Statement (.jpV0Addr addr) :=
  ⟨mask_place (by decide) (by decide) (placeAddr_and addr), congrArg Instr.jpV0Addr (opAddr_place (by decide) addr)⟩

theorem rndVxByte (x : Nibble) (b : Byte) : Statement (.rndVxByte x b) :=
  ⟨mask_place (mask_place (by decide) (by decide) (placeX_and x)) (by decide) (placeB_and b),
    congrArg₂ Instr.rndVxByte (fields_xb (by decide) x b).1 (fields_xb (by decide) x b).2⟩

theorem drwVxVyN (x y n : Nibble) : Statement (.drwVxVyN x y n) := by
  obtain ⟨hx, hy, hn⟩ := fields_xyn (k := 0xD000#16) (by decide) x y n
  exact ⟨mask_place (mask_place (mask_place (by decide) (by decide) (placeX_and x)) (by decide) (placeY_and y)) (by decide) (placeN_and n),
    (congrArg₂ (fun a b => Instr.drwVxVyN a b _) hx hy).trans (congrArg _ hn)⟩

theorem ldVxVy (x y : Nibble) : Statement (.ldVxVy x y) :=
  ⟨mask_place (mask_place (by decide) (by decide) (placeX_and x)) (by decide) (placeY_and y),
    congrArg₂ Instr.ldVxVy (fields_xy (by decide) x y).1 (fields_xy (by decide) x y).2⟩

theorem orVxVy (x y : Nibble) : Statement (.orVxVy x y) :=
  ⟨mask_place (mask_place (by decide) (by decide) (placeX_and x)) (by decide) (placeY_and y),
    congrArg₂ Instr.orVxVy (fields_xy (by decide) x y).1 (fields_xy (by decide) x y).2⟩

theorem andVxVy (x y : Nibble) : Statement (.andVxVy x y) :=
  ⟨mask_place (mask_place (by decide) (by decide) (placeX_and x)) (by decide) (placeY_and y),
    congrArg₂ Instr.andVxVy (fields_xy (by decide) x y).1 (fields_xy (by decide) x y).2⟩

theorem xorVxVy (x y : Nibble) : Statement (.xorVxVy x y) :=
  ⟨mask_place (mask_place (by decide) (by decide) (placeX_and x)) (by decide) (placeY_and y),
    congrArg₂ Instr.xorVxVy (fields_xy (by decide) x y).1 (fields_xy (by decide) x y).2⟩

theorem addVxVy (x y : Nibble) : Statement (.addVxVy x y) :=
  ⟨mask_place (mask_place (by decide) (by decide) (placeX_and x)) (by decide) (placeY_and y),
    congrArg₂ Instr.addVxVy (fields_xy (by decide) x y).1 (fields_xy (by decide) x y).2⟩

theorem subVxVy (x y : Nibble) : Statement (.subVxVy x y) :=
  ⟨mask_place (mask_place (by decide) (by decide) (placeX_and x)) (by decide) (placeY_and y),
    congrArg₂ Instr.subVxVy (fields_xy (by decide) x y).1 (fields_xy (by decide) x y).2⟩

theorem shrVx (x : Nibble) : Statement (.shrVx x) :=
  ⟨mask_place (by decide) (by decide) (placeX_and x), congrArg Instr.shrVx (opX_place (by decide) x)⟩

theorem subnVxVy (x y : Nibble) : Statement (.subnVxVy x y) :=
  ⟨mask_place (mask_place (by decide) (by decide) (placeX_and x)) (by decide) (placeY_and y),
    congrArg₂ Instr.subnVxVy (fields_xy (by decide) x y).1 (fields_xy (by decide) x y).2⟩

theorem shlVx (x : Nibble) : Statement (.shlVx x) :=
  ⟨mask_place (by decide) (by decide) (placeX_and x), congrArg Instr.shlVx (opX_place (by decide) x)⟩

theorem skpVx (x : Nibble) : Statement (.skpVx x) :=
  ⟨mask_place (by decide) (by decide) (placeX_and x), congrArg Instr.skpVx (opX_place (by decide) x)⟩

theorem sknpVx (x : Nibble) : Statement (.sknpVx x) :=
  ⟨mask_place (by decide) (by decide) (placeX_and x), congrArg Instr.sknpVx (opX_place (by decide) x)⟩

theorem ldVxDt (x : Nibble) : Statement (.ldVxDt x) :=
  ⟨mask_place (by decide) (by decide) (placeX_and x), congrArg Instr.ldVxDt (opX_place (by decide) x)⟩

theorem ldVxK (x : Nibble) : Statement (.ldVxK x) :=
  ⟨mask_place (by decide) (by decide) (placeX_and x), congrArg Instr.ldVxK (opX_place (by decide) x)⟩

theorem ldDtVx (x : Nibble) : Statement (.ldDtVx x) :=
  ⟨mask_place (by decide) (by decide) (placeX_and x), congrArg Instr.ldDtVx (opX_place (by decide) x)⟩

theorem ldStVx (x : Nibble) : Statement (.ldStVx x) :=
  ⟨mask_place (by decide) (by decide) (placeX_and x), congrArg Instr.ldStVx (opX_place (by decide) x)⟩

theorem addIVx (x : Nibble) : Statement (.addIVx x) :=
  ⟨mask_place (by decide) (by decide) (placeX_and x), congrArg Instr.addIVx (opX_place (by decide) x)⟩

theorem ldFVx (x : Nibble) : Statement (.ldFVx x) :=
  ⟨mask_place (by decide) (by decide) (placeX_and x), congrArg Instr.ldFVx (opX_place (by decide) x)⟩

theorem ldBVx (x : Nibble) : Statement (.ldBVx x) :=
  ⟨mask_place (by decide) (by decide) (placeX_and x), congrArg Instr.ldBVx (opX_place (by decide) x)⟩

theorem ldMemVx (x : Nibble) : Statement (.ldMemVx x) :=
  ⟨mask_place (by decide) (by decide) (placeX_and x), congrArg Instr.ldMemVx (opX_place (by decide) x)⟩

theorem ldVxMem (x : Nibble) : Statement (.ldVxMem x) :=
  ⟨mask_place (by decide) (by decide) (placeX_and x), congrArg Instr.ldVxMem (opX_place (by decide) x)⟩

theorem unknown (op : Word) : Statement (.unknown op) := ⟨op, rfl, rfl⟩

end EncodingRow

end Sys2Proof.Laws
end

