-- ==== Sys2Proof/Laws/Step.lean ====
section
/-! SUPPORT. Everything a Step and a host operation can do, said once, and that withFetchWord makes the next Step run its word. -/

namespace Sys2Proof.Machine

/-- A Step runs the decoded word exactly when the core is unfaulted, not waiting, and the pc allows a fetch (R120). -/
theorem stepKind_execute_iff (s : State) (op : Word) :
    stepKind s = .execute op ↔ s.fault = .none ∧ s.wait = none ∧ s.pc.toNat ≤ 0xFFE ∧ op = s.fetchWord := by
  unfold stepKind
  by_cases hf : s.fault = .none
  · cases hw : s.wait with
    | some x => simp [hf]
    | none =>
      by_cases hp : s.pc.toNat > 0xFFE
      · simp [hf, hp]
      · simp [hf, hp, show s.pc.toNat ≤ 4094 by omega, eq_comm]
  · simp [hf]

/-- A Step from a core ready to fetch. -/
theorem step_of_ready {s : State} (hf : s.fault = .none) (hw : s.wait = none) (hp : s.pc.toNat ≤ 0xFFE) :
    step s = exec (decodeWord s.fetchWord) s := by
  rw [step, (stepKind_execute_iff s s.fetchWord).2 ⟨hf, hw, hp, rfl⟩]

/-- A Step of a halted core (R121). -/
theorem step_of_halted {s : State} (hf : s.fault ≠ .none) : step s = .next s := by
  simp [step, stepKind, hf]

/-- A Step during the key wait (R122). -/
theorem step_of_waiting {s : State} {x : Nibble} (hf : s.fault = .none) (hw : s.wait = some x) : step s = waitingStep x s := by
  simp [step, stepKind, hf, hw]

/-- A Step whose fetch would leave memory (R123). -/
theorem step_of_badFetch {s : State} (hf : s.fault = .none) (hw : s.wait = none) (hp : s.pc.toNat > 0xFFE) :
    step s = raise .memRange s := by
  simp [step, stepKind, hf, hw, hp]

/-- Everything a Step can do (R120). -/
theorem step_cases {s t : State} (h : step s = .next t) :
    (s.fault ≠ .none ∧ t = s)
    ∨ (s.fault = .none ∧ s.wait ≠ none ∧ s.keyEvent = none ∧ t = s)
    ∨ (s.fault = .none ∧ ∃ x k, s.wait = some x ∧ s.keyEvent = some k
        ∧ t = { s with v := s.v.set x.toNat (k.setWidth 8), pc := s.pc + 2, wait := none, keyEvent := none })
    ∨ (s.fault = .none ∧ s.wait = none ∧ s.pc.toNat > 0xFFE ∧ t = { s with fault := .memRange })
    ∨ (s.fault = .none ∧ s.wait = none ∧ s.pc.toNat ≤ 0xFFE ∧ exec (decodeWord s.fetchWord) s = .next t) := by
  by_cases hf : s.fault = .none
  · rcases Option.eq_none_or_eq_some s.wait with hw | ⟨x, hw⟩
    · by_cases hp : s.pc.toNat > 0xFFE
      · rw [step_of_badFetch hf hw hp] at h
        cases h
        exact .inr (.inr (.inr (.inl ⟨hf, hw, hp, rfl⟩)))
      · rw [step_of_ready hf hw (by omega)] at h
        exact .inr (.inr (.inr (.inr ⟨hf, hw, by omega, h⟩)))
    · rw [step_of_waiting hf hw, waitingStep] at h
      rcases Option.eq_none_or_eq_some s.keyEvent with hk | ⟨k, hk⟩ <;> rw [hk] at h <;> cases h
      · exact .inr (.inl ⟨hf, by simp [hw], hk, rfl⟩)
      · exact .inr (.inr (.inl ⟨hf, x, k, hw, hk, rfl⟩))
  · rw [step_of_halted hf] at h
    cases h
    exact .inl ⟨hf, rfl⟩

/-- Two bytes put together and taken apart. -/
theorem wordOfBytes_bytesOfWord (op : Word) : wordOfBytes (bytesOfWord op).1 (bytesOfWord op).2 = op := by
  simp only [wordOfBytes, bytesOfWord]
  ext i hi
  simp only [BitVec.getElem_append, BitVec.getElem_extractLsb']
  split <;> simp [BitVec.getElem_eq_testBit_toNat, BitVec.getLsbD]
  congr 1; omega

/-- withFetchWord makes the next Step run exactly its word. -/
theorem step_withFetchWord (s : State) (nbits w : Nat) :
    step (s.withFetchWord nbits w)
      = exec (decodeWord (BitVec.ofNat 16 (w % 2 ^ nbits))) (s.withFetchWord nbits w) := by
  have hp : (s.withFetchWord nbits w).pc.toNat ≤ 0xFFE := by
    simp only [State.withFetchWord]; split
    · decide
    · omega
  rw [step_of_ready rfl rfl hp]
  have hw : (s.withFetchWord nbits w).fetchWord = BitVec.ofNat 16 (w % 2 ^ nbits) := by
    rw [← wordOfBytes_bytesOfWord (BitVec.ofNat 16 (w % 2 ^ nbits)), State.fetchWord]
    simp [State.withFetchWord, Memory.writeBytes, Memory.read_write]
  rw [hw]

/-- Everything a host operation can do when the spec has a move for it (R258). -/
theorem applyOp_cases {op : Op} {z z' : Session} (h : applyOp op z = .next z') :
    (op = .reset ∧ z' = ⟨.ready, z.core.doReset⟩)
    ∨ (∃ img, op = .loadImage img ∧ z.phase = .ready ∧ img.length ≤ Config.maxImage
        ∧ z' = ⟨.loaded, z.core.setMem (Memory.writeBytes z.core.mem Config.progBase img)⟩)
    ∨ (op = .step ∧ z.phase ≠ .off ∧ z'.phase = .running ∧ step z.core = .next z'.core)
    ∨ (op = .tick ∧ z.phase ≠ .off ∧ z' = ⟨z.phase, z.core.tick⟩)
    ∨ (∃ k b, op = .setKey k b ∧ z.phase ≠ .off ∧ z' = ⟨z.phase, z.core.setKey k b⟩) := by
  obtain ⟨p, s⟩ := z
  cases op with
  | reset => cases h; exact .inl ⟨rfl, rfl⟩
  | loadImage img =>
    cases p <;> simp only [applyOp, reduceCtorEq] at h
    unfold State.loadImage at h
    split at h
    · cases h; exact .inr (.inl ⟨img, rfl, rfl, by assumption, rfl⟩)
    · cases h
  | step =>
    have hstep : ∀ o, atPhase .running o = .next z' → z'.phase = .running ∧ o = .next z'.core := by
      intro o ho; cases o <;> cases ho; exact ⟨rfl, rfl⟩
    cases p <;> simp only [applyOp, reduceCtorEq] at h <;>
      exact .inr (.inr (.inl ⟨rfl, by simp, hstep _ h⟩))
  | tick => cases p <;> simp only [applyOp, reduceCtorEq] at h <;> cases h <;> exact .inr (.inr (.inr (.inl ⟨rfl, by simp, rfl⟩)))
  | setKey k b =>
    cases p <;> simp only [applyOp, reduceCtorEq] at h <;> cases h <;>
      exact .inr (.inr (.inr (.inr ⟨k, b, rfl, by simp, rfl⟩)))

end Sys2Proof.Machine
end

