-- ==== Sys2Proof/Machine/Text.lean ====
section
/-! DEFINITION. The decoder's mnemonic text (spec/30_encoding.md R106, R107; the spec's decision D24, log 18). Diagnostic only: no rule of
execution depends on it. -/

namespace Sys2Proof.Machine

/-- One uppercase hexadecimal digit. -/
def hexDigit (d : Nibble) : String :=
  String.ofList [['0', '1', '2', '3', '4', '5', '6', '7', '8', '9', 'A', 'B', 'C', 'D', 'E', 'F'].getD d.toNat '0']

/-- A byte as two digits. -/
def hexByte (b : Byte) : String := hexDigit (b.extractLsb' 4 4) ++ hexDigit (b.extractLsb' 0 4)

/-- An address as three digits. -/
def hexAddr (a : Addr) : String := hexDigit (a.extractLsb' 8 4) ++ hexDigit (a.extractLsb' 4 4) ++ hexDigit (a.extractLsb' 0 4)

/-- A word as four digits. -/
def hexWord (w : Word) : String := hexByte (w.extractLsb' 8 8) ++ hexByte (w.extractLsb' 0 8)

/-- A register: `V` and one digit. -/
def regText (x : Nibble) : String := "V" ++ hexDigit x

/-- Two operands, separated by a comma and a space. -/
def operands (a b : String) : String := a ++ ", " ++ b

/-- The text of an instruction, as the table of R107 writes it. -/
def instrText : Instr → String
  | .cls => "CLS"
  | .ret => "RET"
  | .sys addr => "SYS " ++ hexAddr addr
  | .jp addr => "JP " ++ hexAddr addr
  | .call addr => "CALL " ++ hexAddr addr
  | .seVxByte x b => "SE " ++ operands (regText x) (hexByte b)
  | .sneVxByte x b => "SNE " ++ operands (regText x) (hexByte b)
  | .seVxVy x y => "SE " ++ operands (regText x) (regText y)
  | .ldVxByte x b => "LD " ++ operands (regText x) (hexByte b)
  | .addVxByte x b => "ADD " ++ operands (regText x) (hexByte b)
  | .sneVxVy x y => "SNE " ++ operands (regText x) (regText y)
  | .ldIAddr addr => "LD " ++ operands "I" (hexAddr addr)
  | .jpV0Addr addr => "JP " ++ operands "V0" (hexAddr addr)
  | .rndVxByte x b => "RND " ++ operands (regText x) (hexByte b)
  | .drwVxVyN x y n => "DRW " ++ operands (operands (regText x) (regText y)) (hexDigit n)
  | .ldVxVy x y => "LD " ++ operands (regText x) (regText y)
  | .orVxVy x y => "OR " ++ operands (regText x) (regText y)
  | .andVxVy x y => "AND " ++ operands (regText x) (regText y)
  | .xorVxVy x y => "XOR " ++ operands (regText x) (regText y)
  | .addVxVy x y => "ADD " ++ operands (regText x) (regText y)
  | .subVxVy x y => "SUB " ++ operands (regText x) (regText y)
  | .shrVx x => "SHR " ++ regText x
  | .subnVxVy x y => "SUBN " ++ operands (regText x) (regText y)
  | .shlVx x => "SHL " ++ regText x
  | .skpVx x => "SKP " ++ regText x
  | .sknpVx x => "SKNP " ++ regText x
  | .ldVxDt x => "LD " ++ operands (regText x) "DT"
  | .ldVxK x => "LD " ++ operands (regText x) "K"
  | .ldDtVx x => "LD " ++ operands "DT" (regText x)
  | .ldStVx x => "LD " ++ operands "ST" (regText x)
  | .addIVx x => "ADD " ++ operands "I" (regText x)
  | .ldFVx x => "LD " ++ operands "F" (regText x)
  | .ldBVx x => "LD " ++ operands "B" (regText x)
  | .ldMemVx x => "LD " ++ operands "[I]" (regText x)
  | .ldVxMem x => "LD " ++ operands (regText x) "[I]"
  | .unknown op => "UNKNOWN " ++ hexWord op

end Sys2Proof.Machine
end

