-- ==== Sys2Proof/Tests/Slice0.lean ====
section
/-! SUPPORT. Tests, each against a vector of spec/95_test_vectors.md or an example of 30_encoding.md, and for every statement with
hypotheses a witness that something meets them. Words are written out from the spec's encodings. -/

open Sys2Proof Sys2Proof.Machine

namespace Sys2Proof.Tests

/-! ### Small states -/

/-- Some general registers set. -/
def regs (l : List (Nibble × Byte)) (s : State) : State := l.foldl (fun s p => s.writeV p.1 p.2) s
/-- Some bytes of memory set. -/
def bytes (a : Nat) (bs : List Byte) (s : State) : State := s.setMem (Memory.writeBytes s.mem a bs)
/-- Some pixels set. -/
def pixels (l : List (Nat × Nat)) (s : State) : State := s.setFb (l.foldl (fun fb p => fb.setPixel p.1 p.2 true) s.fb)
/-- The columns of the pixels that are set in one row. -/
def lit (s : State) (r : Nat) : List Nat := (List.range 64).filter fun c => s.fb.pixel r c
/-- One Step with a word at the pc. -/
def after (s : State) (op : Word) : Option State :=
  match step (s.withFetchWord 16 op.toNat) with
  | .next t => some t
  | .fault _ => none
  | .refused _ => none
/-- One Step of a state as it is. -/
def stepped (s : State) : Option State :=
  match step s with
  | .next t => some t
  | .fault _ => none
  | .refused _ => none
/-- The state after Reset. -/
abbrev s0 : State := .reset

/-! ### Ill-formed terms, one for each check of wellFormed, and terms at its edges that pass -/

theorem test_wf_sys_cls : (Instr.sys 0x0E0).wellFormed = false := by decide
theorem test_wf_sys_ret : (Instr.sys 0x0EE).wellFormed = false := by decide
theorem test_wf_unknown_known8 : (Instr.unknown 0x8124).wellFormed = false := by decide
theorem test_wf_unknown_knownE : (Instr.unknown 0xE101).wellFormed = false ∧ (Instr.unknown 0xE1AE).wellFormed = false := by decide
theorem test_wf_unknown_knownF : (Instr.unknown 0xF10A).wellFormed = false := by decide
theorem test_wf_unknown_other : (Instr.unknown 0x00E0).wellFormed = false ∧ (Instr.unknown 0x5123).wellFormed = false := by decide
theorem test_wf_accepts : (Instr.sys 0x0E1).wellFormed = true ∧ (Instr.unknown 0x8128).wellFormed = true
    ∧ (Instr.unknown 0xE19F).wellFormed = true ∧ (Instr.unknown 0xF100).wellFormed = true := by decide

/-! ### Decoding: the words of 95_test_vectors.md section 2.1 and of the table of 30_encoding.md R107 -/

theorem test_decode_exact : decodeWord 0x00E0 = .cls ∧ decodeWord 0x00EE = .ret := by decide
theorem test_decode_sys : decodeWord 0x0000 = .sys 0x000 ∧ decodeWord 0x00E1 = .sys 0x0E1 ∧ decodeWord 0x00FF = .sys 0x0FF
    ∧ decodeWord 0x0123 = .sys 0x123 := by decide
theorem test_decode_jumps : decodeWord 0x1204 = .jp 0x204 ∧ decodeWord 0x2300 = .call 0x300 ∧ decodeWord 0xB300 = .jpV0Addr 0x300 := by
  decide
theorem test_decode_skips : decodeWord 0x3A05 = .seVxByte 10 0x05 ∧ decodeWord 0x4A05 = .sneVxByte 10 0x05
    ∧ decodeWord 0x5120 = .seVxVy 1 2 ∧ decodeWord 0x512F = .seVxVy 1 2 ∧ decodeWord 0x9120 = .sneVxVy 1 2
    ∧ decodeWord 0x9125 = .sneVxVy 1 2 := by decide
theorem test_decode_immediates : decodeWord 0x632A = .ldVxByte 3 0x2A ∧ decodeWord 0x7301 = .addVxByte 3 0x01
    ∧ decodeWord 0xA300 = .ldIAddr 0x300 ∧ decodeWord 0xC10F = .rndVxByte 1 0x0F ∧ decodeWord 0xD014 = .drwVxVyN 0 1 4 := by decide
theorem test_decode_logic : decodeWord 0x8120 = .ldVxVy 1 2 ∧ decodeWord 0x8121 = .orVxVy 1 2 ∧ decodeWord 0x8122 = .andVxVy 1 2
    ∧ decodeWord 0x8123 = .xorVxVy 1 2 := by decide
theorem test_decode_arithmetic : decodeWord 0x8AB4 = .addVxVy 10 11 ∧ decodeWord 0x8125 = .subVxVy 1 2 ∧ decodeWord 0x8127 = .subnVxVy 1 2
    ∧ decodeWord 0x8106 = .shrVx 1 ∧ decodeWord 0x8176 = .shrVx 1 ∧ decodeWord 0x810E = .shlVx 1 ∧ decodeWord 0x81FE = .shlVx 1 := by decide
theorem test_decode_keys : decodeWord 0xE19E = .skpVx 1 ∧ decodeWord 0xE10E = .skpVx 1 ∧ decodeWord 0xE1A1 = .sknpVx 1
    ∧ decodeWord 0xE101 = .sknpVx 1 := by decide
theorem test_decode_eff : decodeWord 0xF107 = .ldVxDt 1 ∧ decodeWord 0xF10A = .ldVxK 1 ∧ decodeWord 0xF115 = .ldDtVx 1
    ∧ decodeWord 0xF118 = .ldStVx 1 ∧ decodeWord 0xF11E = .addIVx 1 ∧ decodeWord 0xF129 = .ldFVx 1 ∧ decodeWord 0xF133 = .ldBVx 1
    ∧ decodeWord 0xF355 = .ldMemVx 3 ∧ decodeWord 0xF365 = .ldVxMem 3 := by decide
theorem test_decode_unknown : decodeWord 0x8128 = .unknown 0x8128 ∧ decodeWord 0x812F = .unknown 0x812F
    ∧ decodeWord 0xE19F = .unknown 0xE19F ∧ decodeWord 0xE000 = .unknown 0xE000 ∧ decodeWord 0xF100 = .unknown 0xF100
    ∧ decodeWord 0xF1FF = .unknown 0xF1FF ∧ decodeWord 0xF075 = .unknown 0xF075 ∧ decodeWord 0xFFFF = .unknown 0xFFFF := by decide
/-- Fewer than two bytes hold no instruction. -/
theorem test_decode_truncated : decode [0x12] = .error .truncated ∧ decode [0x12, 0x04, 0x55] = .ok (.jp 0x204, [0x55]) := by
  decide
/-- Vector S2: ignored bits re-encode as zeros; the key skips by the literal row, and by the canonical spelling of R98. -/
theorem test_encode_ignored : encode (decodeWord 0x512F) = 0x5120 ∧ encode (decodeWord 0x8176) = 0x8106
    ∧ encode (decodeWord 0xE10E) = 0xE10E ∧ canonicalWord (decodeWord 0xE10E) = 0xE19E := by decide
/-- The host's numbering: bit 0 is the least significant bit of the word, the high byte lies first. -/
theorem test_decodeTableWord : decodeTableWord 16 0xD014 = some (.drwVxVyN 0 1 4) ∧ decodeTableWord 16 0x00EE = some .ret := by decide

/-! ### Text (R107) -/

theorem test_text : instrText (decodeWord 0x632A) = "LD V3, 2A" ∧ instrText (decodeWord 0xD014) = "DRW V0, V1, 4"
    ∧ instrText (decodeWord 0xB300) = "JP V0, 300" ∧ instrText (decodeWord 0x3A05) = "SE VA, 05"
    ∧ instrText (decodeWord 0xF365) = "LD V3, [I]" ∧ instrText (decodeWord 0x8128) = "UNKNOWN 8128" := by decide

/-! ### Control flow (95_test_vectors.md section 2.4) -/

theorem test_jp : (after s0 0x1235).map (·.pc) = some 0x0235 := by decide
theorem test_sys : (after s0 0x0300).map (fun t => (t.pc, t.sp)) = some (0x0300, 0) := by decide
theorem test_sys_neighbour : (after s0 0x00E1).map (·.pc) = some 0x00E1 := by decide
theorem test_call_top : (after (s0.setPc 0xFFE) 0x2300).map (fun t => (t.sp, t.readStack 1, t.pc)) = some (1, 0x1000, 0x0300) := by decide
theorem test_call_overflow : (after ((s0.setSp 15).writeStack 15 0x0ABC) 0x2300).map (fun t => (t.fault, t.sp, t.readStack 15, t.pc))
    = some (.stackOverflow, 15, 0x0ABC, 0x0200) := by decide
theorem test_ret : (after (((s0.setPc 0x300).setSp 1).writeStack 1 0x0202) 0x00EE).map (fun t => (t.pc, t.sp, t.readStack 1))
    = some (0x0202, 0, 0x0202) := by decide
theorem test_ret_underflow : (after s0 0x00EE).map (fun t => (t.fault, t.pc, t.sp)) = some (.stackUnderflow, 0x200, 0) := by decide
theorem test_jpV0 : (after (regs [(0, 0xFF)] s0) 0xBFFF).map (·.pc) = some 0x10FE := by decide
theorem test_seVxVy : (after (regs [(1, 7), (2, 8)] s0) 0x5120).map (·.pc) = some 0x202 := by decide
theorem test_seVxVy_self : (after (regs [(3, 9)] s0) 0x5330).map (·.pc) = some 0x204 := by decide
theorem test_sneVxVy : (after (regs [(1, 7), (2, 8)] s0) 0x912A).map (·.pc) = some 0x204 := by decide
theorem test_sneVxVy_self : (after (regs [(3, 9)] s0) 0x9330).map (·.pc) = some 0x202 := by decide
theorem test_seVxByte_top : (after (s0.setPc 0xFFE) 0x3000).map (fun t => (t.pc, t.fault)) = some (0x1002, .none) := by decide
/-- From the rule R150 itself. -/
theorem test_sneVxByte : (after (regs [(10, 5)] s0) 0x4A05).map (·.pc) = some 0x202
    ∧ (after (regs [(10, 6)] s0) 0x4A05).map (·.pc) = some 0x204 := by decide

/-! ### Registers, arithmetic, logic (section 2.3) -/

theorem test_ldVxByte : (after s0 0x6F07).map (fun t => (t.readV 15, t.pc)) = some (0x07, 0x202) := by decide
theorem test_addVxByte : (after (regs [(3, 0xFF)] s0) 0x7302).map (fun t => (t.readV 3, t.readV 15)) = some (0x01, 0) := by decide
theorem test_addVxByte_vf : (after (regs [(15, 0xFF)] s0) 0x7F01).map (·.readV 15) = some 0 := by decide
theorem test_ldVxVy : (after (regs [(1, 1), (2, 0x5A), (15, 1)] s0) 0x8120).map (fun t => (t.readV 1, t.readV 15)) = some (0x5A, 1) := by
  decide
theorem test_or : (after (regs [(1, 0xF0), (2, 0x0F), (15, 1)] s0) 0x8121).map (fun t => (t.readV 1, t.readV 15)) = some (0xFF, 1) := by
  decide
theorem test_and : (after (regs [(1, 0xF0), (2, 0x3C), (15, 1)] s0) 0x8122).map (fun t => (t.readV 1, t.readV 15)) = some (0x30, 1) := by
  decide
theorem test_xor : (after (regs [(1, 0xF0), (2, 0x3C), (15, 1)] s0) 0x8123).map (fun t => (t.readV 1, t.readV 15)) = some (0xCC, 1) := by
  decide
theorem test_add : (after (regs [(10, 0xF0), (11, 0x20)] s0) 0x8AB4).map (fun t => (t.readV 10, t.readV 15)) = some (0x10, 1) := by decide
theorem test_add_vf : (after (regs [(15, 0x10), (1, 0x20)] s0) 0x8F14).map (·.readV 15) = some 0x00 := by decide
theorem test_sub_equal : (after (regs [(1, 0x33), (2, 0x33), (15, 1)] s0) 0x8125).map (fun t => (t.readV 1, t.readV 15)) = some (0, 0) := by
  decide
theorem test_sub_vf : (after (regs [(1, 0x05), (15, 0x01)] s0) 0x81F5).map (fun t => (t.readV 1, t.readV 15)) = some (0x04, 0x01) := by
  decide
theorem test_subn : (after (regs [(1, 0x20), (2, 0x10)] s0) 0x8127).map (fun t => (t.readV 1, t.readV 15)) = some (0xF0, 0) := by decide
theorem test_subn_vf : (after (regs [(15, 0x10), (1, 0x30)] s0) 0x8F17).map (·.readV 15) = some 0x01 := by decide
theorem test_shr : (after (regs [(1, 0xFF)] s0) 0x8126).map (fun t => (t.readV 1, t.readV 15, t.readV 2)) = some (0x7F, 1, 0) := by decide
theorem test_shr_vf : (after (regs [(15, 0x02)] s0) 0x8F06).map (·.readV 15) = some 0x00 := by decide
theorem test_shl : (after (regs [(1, 0x81)] s0) 0x810E).map (fun t => (t.readV 1, t.readV 15)) = some (0x02, 1) := by decide
theorem test_shl_vf : (after (regs [(15, 0x7F)] s0) 0x8F0E).map (·.readV 15) = some 0x00 := by decide
/-- With the input byte given, since what a Step draws is a free value. -/
theorem test_rnd : (rndResult 0xA7 1 0x0F s0).readV 1 = 0x07 ∧ (rndResult 0x5A 15 0xF0 s0).readV 15 = 0x50 := by decide

/-! ### Index register and memory (section 2.5) -/

theorem test_ldI : (after s0 0xAFFF).map (·.i) = some 0x0FFF := by decide
theorem test_addI : (after (regs [(2, 1)] (s0.setI 0x0FFF)) 0xF21E).map (fun t => (t.i, t.readV 15, t.fault)) = some (0x1000, 0, .none) := by
  decide
theorem test_addI_wraps : (after (regs [(2, 0xFF)] (s0.setI 0xFF80)) 0xF21E).map (·.i) = some 0x007F := by decide
theorem test_ldF : (after (regs [(1, 0x1A)] s0) 0xF129).map (·.i) = some 0x0032 := by decide
theorem test_ldB : (after (regs [(1, 157)] (s0.setI 0x300)) 0xF133).map (fun t => (Memory.readBytes t.mem 0x300 4, t.i))
    = some ([1, 5, 7, 0], 0x300) := by decide
theorem test_ldB_fault : (after (regs [(1, 99)] (s0.setI 0xFFE)) 0xF133).map (fun t => (t.fault, Memory.readBytes t.mem 0xFFE 2, t.pc))
    = some (.memRange, [0, 0], 0x200) := by decide
theorem test_ldMem : (after (regs [(0, 0x11), (1, 0x22), (2, 0x33), (3, 0x44), (4, 0x55)] (s0.setI 0x400)) 0xF355).map
    (fun t => (Memory.readBytes t.mem 0x400 5, t.i)) = some ([0x11, 0x22, 0x33, 0x44, 0], 0x400) := by decide
theorem test_ldMem_fault : (after (regs [(0, 0xA0), (1, 0xA1)] (s0.setI 0xFF1)) 0xFF55).map
    (fun t => (t.fault, Memory.readBytes t.mem 0xFF1 2)) = some (.memRange, [0, 0]) := by decide
/-- The font's bytes, the spec's default. -/
theorem test_ldVxMem : (after s0 0xFF65).map (·.v.toList)
    = some [0xF0, 0x90, 0x90, 0x90, 0xF0, 0x20, 0x60, 0x20, 0x20, 0x70, 0xF0, 0x10, 0xF0, 0x80, 0xF0, 0xF0] := by decide
theorem test_ldVxMem_keeps : (after (regs [(4, 0x99)] ((bytes 0x400 [1, 2, 3, 4, 5] s0).setI 0x400)) 0xF365).map
    (fun t => (t.readV 3, t.readV 4, t.i)) = some (4, 0x99, 0x400) := by decide

/-! ### Display (sections 1 and 2.6) -/

theorem test_cls : (after (pixels [(0, 0), (5, 5), (31, 63)] (regs [(15, 1)] s0)) 0x00E0).map (fun t => (lit t 0, lit t 5, lit t 31, t.readV 15, t.pc))
    = some ([], [], [], 1, 0x202) := by decide
/-- Program P3's first draw: both axes wrap. -/
theorem test_drw_wraps : (after (regs [(0, 0x3C), (1, 0x1F)] ((bytes 0x300 [0xFF, 0x81] s0).setI 0x300)) 0xD012).map
    (fun t => (lit t 0, lit t 31, lit t 1, t.readV 15)) = some ([3, 60], [0, 1, 2, 3, 60, 61, 62, 63], [], 0) := by decide
/-- A collision in the first row is kept although the last row has none; VF holds no old value. -/
theorem test_drw_collides : (after (pixels [(0, 0)] (regs [(15, 1)] ((bytes 0x300 [0x80, 0x01] s0).setI 0x300))) 0xD012).map
    (fun t => (lit t 0, lit t 1, t.readV 15)) = some ([], [7], 1) := by decide

/-! ### Keypad and timers (section 2.7) -/

theorem test_skp : (after (regs [(1, 0x15)] (s0.writeKey 5 true)) 0xE19E).map (·.pc) = some 0x204 := by decide
theorem test_skp_up : (after (regs [(1, 0xF5)] (s0.writeKey 4 true)) 0xE19E).map (·.pc) = some 0x202 := by decide
theorem test_sknp : (after (regs [(1, 5)] s0) 0xE101).map (·.pc) = some 0x204 := by decide
theorem test_sknp_down : (after (regs [(1, 0xF5)] (s0.writeKey 5 true)) 0xE1A1).map (·.pc) = some 0x202 := by decide
theorem test_ldVxDt : (after (regs [(1, 9)] (s0.setDt 0x3C)) 0xF107).map (fun t => (t.readV 1, t.dt)) = some (0x3C, 0x3C) := by decide
theorem test_ldDtVx : (after (s0.setDt 9) 0xF115).map (·.dt) = some 0 := by decide
theorem test_ldStVx : (after (regs [(1, 2)] s0) 0xF118).map (fun t => (t.st, soundActive t, t.dt)) = some (2, true, 0) := by decide
theorem test_ldVxK : (after (s0.writeKey 2 true) 0xFF0A).map (fun t => (t.wait, t.keyEvent, t.pc, awaitingKey t))
    = some (some 15, none, 0x200, true) := by decide
theorem test_keyWait_completes : (stepped ((s0.setWait (some 15)).setKeyEvent (some 2))).map
    (fun t => (t.readV 15, t.pc, t.wait, t.keyEvent)) = some (2, 0x202, none, none) := by decide

/-! ### The Step, unknown words, faults, the host (sections 2.2, 2.7, 2.8) -/

theorem test_unknown : (after s0 0x8008).map (fun t => (t.pc, t.fault)) = some (0x202, .none)
    ∧ stepDiag (s0.withFetchWord 16 0x8008) = some ⟨0x8008, 0x200⟩ := by decide
theorem test_odd_pc : (stepped ((bytes 0x200 [0x12, 0x61, 0x05, 0x00] s0).setPc 0x201)).map (fun t => (t.readV 1, t.pc))
    = some (0x05, 0x203) := by decide
theorem test_last_fetch : (stepped ((bytes 0xFFE [0x60, 0x77] s0).setPc 0xFFE)).map (fun t => (t.readV 0, t.pc)) = some (0x77, 0x1000) := by
  decide
theorem test_fetch_fault : (stepped (s0.setPc 0xFFF)).map (fun t => (t.fault, t.pc)) = some (.memRange, 0xFFF) := by decide
theorem test_halted : stepped (bytes 0x200 [0x61, 0x05] (s0.setFault .stackUnderflow)) = some (bytes 0x200 [0x61, 0x05] (s0.setFault .stackUnderflow)) := by
  decide
theorem test_empty_image : (stepped s0).map (·.pc) = some 0x0000 := by decide
theorem test_tick : ((s0.setDt 1).setSt 255).tick.dt = 0 ∧ ((s0.setDt 1).setSt 255).tick.st = 254
    ∧ ((s0.setDt 5).setFault .stackUnderflow).tick.dt = 4 := by decide
theorem test_setKey : ((s0.setWait (some 15)).setKey 2 true).keyEvent = some 2
    ∧ (((s0.setWait (some 15)).writeKey 2 true).setKey 2 true).keyEvent = none
    ∧ (((s0.setWait (some 15)).setKey 2 true).setKey 9 true).keyEvent = some 2
    ∧ (s0.setKey 4 true).keyEvent = none := by decide
/-- The image of the smallest vector of S10, loaded after Reset and stepped once. -/
theorem test_session : (match runOps [.reset, .loadImage [0x23, 0x00], .step] ⟨.off, s0⟩ with
    | .next z => (z.phase, z.core.sp, z.core.readStack 1, z.core.pc)
    | _ => (.off, 0, 0, 0)) = (.running, 1, 0x0202, 0x0300) := by decide
theorem test_doReset : (bytes 0x200 [0x00, 0xEE] ((s0.setFault .stackUnderflow).setDt 4)).doReset.fault = .none
    ∧ (bytes 0x200 [0x00, 0xEE] ((s0.setFault .stackUnderflow).setDt 4)).doReset.mem = [] := by decide
/-- The stored form of memory: sorted, and a byte set back to its reset contents leaves the list. -/
theorem test_memory_canonical : Memory.writeBytes [] 0x300 [1, 2] = [(0x300, 1), (0x301, 2)]
    ∧ Memory.write (Memory.write [] 0x300 1) 0x300 0 = [] ∧ Memory.write [] 0x000 0xF0 = []
    ∧ Memory.write [(0x300, 1)] 0x200 7 = [(0x200, 7), (0x300, 1)] := by decide

/-! ### Witnesses: what the hypotheses of the statements ask can be met, each clause at an edge of its range -/

theorem witness_DecodeEncodeRoundTrip : (Instr.sys 0x0EF).wellFormed = true ∧ (Instr.unknown 0xFFFF).wellFormed = true
    ∧ (Instr.drwVxVyN 15 15 15).wellFormed = true := by decide

theorem witness_UnknownWordsExactly : decodeWord 0x8128 = .unknown 0x8128 ∧ decodeWord 0xE000 = .unknown 0xE000
    ∧ decodeWord 0xFFFF = .unknown 0xFFFF := by decide

theorem witness_OpcodeMapRowsDisjoint : ∃ r q, opcodeMap[0]? = some r ∧ opcodeMap[2]? = some q ∧ 0x00E0#16 &&& r.mask = r.pattern
    ∧ 0x00E0#16 &&& q.mask = q.pattern := ⟨_, _, rfl, rfl, by decide, by decide⟩

/-- The last two bytes of memory, with a word in them. -/
def lastWord : State := (bytes 0xFFE [0x60, 0x77] s0).setPc 0xFFE

theorem witness_StepRunsDecodedInstruction : lastWord.fault = .none ∧ lastWord.wait = none ∧ lastWord.pc.toNat ≤ 0xFFE
    ∧ decode [Memory.read lastWord.mem lastWord.pc.toNat, Memory.read lastWord.mem (lastWord.pc.toNat + 1)] = .ok (.ldVxByte 0 0x77, []) := by
  decide

theorem witness_HaltedStepChangesNothing : (s0.setFault .memRange).fault ≠ .none := by decide

/-- A core in a key wait, with a press latched or without one. -/
def waiting (e : Option Nibble) : State := (((bytes 0x200 [0xFF, 0x0A] s0).setWait (some 15)).setKeyEvent e)

theorem witness_WaitingStep : (waiting none).fault = .none ∧ (waiting none).wait = some 15 ∧ (waiting none).keyEvent = none
    ∧ (waiting (some 2)).fault = .none ∧ (waiting (some 2)).wait = some 15 ∧ (waiting (some 2)).keyEvent = some 2 := by decide

theorem witness_FetchOutsideMemoryFaults : (s0.setPc 0xFFF).fault = .none ∧ (s0.setPc 0xFFF).wait = none ∧ (s0.setPc 0xFFF).pc.toNat > 0xFFE := by
  decide

theorem witness_SysAndJumpSetPc : (0x00EF#16 &&& 0xF000#16 = 0x0000#16 ∧ 0x00EF#16 ≠ 0x00E0#16 ∧ 0x00EF#16 ≠ 0x00EE#16)
    ∧ 0x1FFF#16 &&& 0xF000#16 = 0x1000#16 := by decide

theorem witness_CompareAndSkip : 0x3A05#16 &&& 0xF000#16 = 0x3000#16 ∧ 0x4A05#16 &&& 0xF000#16 = 0x4000#16
    ∧ 0x512F#16 &&& 0xF000#16 = 0x5000#16 ∧ 0x9125#16 &&& 0xF000#16 = 0x9000#16 := by decide

theorem witness_IndexedJump : 0xBFFF#16 &&& 0xF000#16 = 0xB000#16 := by decide

theorem witness_CallPushesReturnAddress : (s0.setSp 14).sp.toNat < 15 ∧ s0.sp.toNat < 15 ∧ (s0.setSp 15).sp = 15 := by decide

theorem witness_ReturnPopsStack : (s0.setSp 15).sp ≠ 0 ∧ (s0.setSp 1).sp ≠ 0 ∧ s0.sp = 0 := by decide

theorem witness_NestedCallsAndReturnsBalance : (List.replicate 15 (0x300 : Addr)) ≠ []
    ∧ s0.sp.toNat + (List.replicate 15 (0x300 : Addr)).length ≤ 15 := by decide

theorem witness_LoadAndAddImmediate : 0x6FFF#16 &&& 0xF000#16 = 0x6000#16 ∧ 0x7FFF#16 &&& 0xF000#16 = 0x7000#16 := by decide

theorem witness_CopyAndLogic : 0x8FF0#16 &&& 0xF00F#16 = 0x8000#16 ∧ 0x8FF1#16 &&& 0xF00F#16 = 0x8001#16
    ∧ 0x8FF2#16 &&& 0xF00F#16 = 0x8002#16 ∧ 0x8FF3#16 &&& 0xF00F#16 = 0x8003#16 := by decide

theorem witness_AddSubSubnWithFlag : (regs [(15, 0x80), (1, 0xFF)] s0).v[(15 : Nibble).toNat].toNat = 0x80
    ∧ (regs [(15, 0x80), (1, 0xFF)] s0).v[(1 : Nibble).toNat].toNat = 0xFF := by decide

theorem witness_ShiftsWithFlag : (regs [(15, 0x81)] s0).v[(15 : Nibble).toNat].toNat = 0x81 := by decide

theorem witness_FlagIsZeroOrOne : (∃ x y n, Instr.drwVxVyN 0 1 15 = .addVxVy x y ∨ Instr.drwVxVyN 0 1 15 = .subVxVy x y
      ∨ Instr.drwVxVyN 0 1 15 = .subnVxVy x y ∨ Instr.drwVxVyN 0 1 15 = .shrVx x ∨ Instr.drwVxVyN 0 1 15 = .shlVx x
      ∨ Instr.drwVxVyN 0 1 15 = .drwVxVyN x y n)
    ∧ faultOf (.drwVxVyN 0 1 15) (s0.setI 0xFF1) = none ∧ ∃ t, exec (.drwVxVyN 0 1 15) (s0.setI 0xFF1) = .next t :=
  ⟨⟨0, 1, 15, by simp⟩, by decide, ⟨_, rfl⟩⟩

theorem witness_SetIndex : 0xAFFF#16 &&& 0xF000#16 = 0xA000#16 := by decide

theorem witness_StoreBcd : (s0.setI 0xFFD).i.toNat ≤ 0xFFD := by decide

theorem witness_BlockStore : (s0.setI 0xFF0).i.toNat + (15 : Nibble).toNat ≤ 0xFFF ∧ (s0.setI 0xFFF).i.toNat + (0 : Nibble).toNat ≤ 0xFFF := by
  decide

theorem witness_BlockLoad : (s0.setI 0xFF0).i.toNat + (15 : Nibble).toNat ≤ 0xFFF ∧ (s0.setI 0xFFF).i.toNat + (0 : Nibble).toNat ≤ 0xFFF := by
  decide

theorem witness_BlockStoreLoadRoundTrip : (s0.setI 0xFFC).i.toNat + (3 : Nibble).toNat ≤ 0xFFF
    ∧ ∃ t u : State, exec (.ldMemVx 3) (regs [(3, 0x44)] (s0.setI 0xFFC)) = .next t ∧ u.mem = t.mem ∧ u.i = t.i ∧ u.readV 3 ≠ 0x44 :=
  ⟨by decide, _, regs [(3, 0)] (bytes 0xFFC [0, 0, 0, 0x44] (s0.setI 0xFFC)), rfl, by decide, by decide, by decide⟩

theorem witness_FaultsExactlyAndPrecisely : (∃ t, exec (.call 0x300) (s0.setSp 15) = .next t) ∧ (∃ t, exec (.call 0x300) (s0.setSp 14) = .next t)
    ∧ (∃ t, exec (.ldBVx 1) (s0.setI 0xFFE) = .next t) ∧ ∃ t, exec (.ldBVx 1) (s0.setI 0xFFD) = .next t :=
  ⟨⟨_, rfl⟩, ⟨_, rfl⟩, ⟨_, rfl⟩, ⟨_, rfl⟩⟩

theorem witness_FaultingStepIsPrecise : ∃ t, step (s0.setPc 0xFFF) = .next t ∧ t.fault ≠ (s0.setPc 0xFFF).fault :=
  ⟨_, rfl, by decide⟩

/-- A core about to store over its next instruction, the last one of memory. -/
def selfStore : State := (regs [(0, 0x12), (1, 0x08)] (s0.setI 0xFFE)).setPc 0xFFC

theorem witness_StoreSeenByNextFetch : selfStore.fault = .none ∧ selfStore.wait = none ∧ selfStore.pc.toNat + 2 ≤ 0xFFE
    ∧ 1 ≤ (1 : Nibble).toNat ∧ selfStore.i = selfStore.pc + 2 ∧ selfStore.i.toNat + (1 : Nibble).toNat ≤ 0xFFF
    ∧ ∃ t, exec (.ldMemVx 1) selfStore = .next t :=
  ⟨rfl, rfl, by decide, by decide, by decide, by decide, _, rfl⟩

theorem witness_CanonicalMemoryIsUnique : Memory.wf [(0x200, 1), (0xFFF, 2)] = true
    ∧ ∀ a, Memory.read [(0x200, 1), (0xFFF, 2)] a = Memory.read [(0x200, 1), (0xFFF, 2)] a := ⟨by decide, fun _ => rfl⟩

theorem witness_ClearDisplay : ∃ u : State, u.fb = Framebuffer.blank ∧ u.pc = 0x202 := ⟨s0.setPc 0x202, rfl, rfl⟩

theorem witness_DrawSprite_range : ((0 : Nibble) = 0 ∨ (s0.setI 0xFFFF).i.toNat + (0 : Nibble).toNat ≤ 0x1000)
    ∧ ((1 : Nibble) = 0 ∨ (s0.setI 0xFFF).i.toNat + (1 : Nibble).toNat ≤ 0x1000)
    ∧ ((15 : Nibble) = 0 ∨ (s0.setI 0xFF1).i.toNat + (15 : Nibble).toNat ≤ 0x1000) := by decide

/-- A one-row sprite over a lit pixel. -/
def overlap : State := pixels [(0, 0)] ((bytes 0x300 [0x80] s0).setI 0x300)

theorem witness_DrawSprite_hit : (true = true ↔ ∃ r c, ∃ (hr : r < 32) (hc : c < 64), overlap.fb[r][c] = true
      ∧ spriteBit (Memory.readBytes overlap.mem overlap.i.toNat (1 : Nibble).toNat) overlap.v[(0 : Nibble).toNat].toNat
          overlap.v[(1 : Nibble).toNat].toNat r c = true)
    ∧ (false = true ↔ ∃ r c, ∃ (hr : r < 32) (hc : c < 64), s0.fb[r][c] = true
      ∧ spriteBit (Memory.readBytes s0.mem s0.i.toNat (1 : Nibble).toNat) s0.v[(0 : Nibble).toNat].toNat
          s0.v[(1 : Nibble).toNat].toNat r c = true) := by
  refine ⟨⟨fun _ => ⟨0, 0, by decide, by decide, by decide, by decide⟩, fun _ => rfl⟩, ?_⟩
  simp [State.reset]

theorem witness_DrawTwiceRestores : ∃ s t u : State, ((2 : Nibble) = 0 ∨ s.i.toNat + (2 : Nibble).toNat ≤ 0x1000) ∧ (0 : Nibble) ≠ 15 ∧ (1 : Nibble) ≠ 15
    ∧ exec (.drwVxVyN 0 1 2) s = .next t ∧ exec (.drwVxVyN 0 1 2) { t with pc := s.pc } = .next u
    ∧ s.fb = Vector.replicate 32 (Vector.replicate 64 false) :=
  ⟨(bytes 0x300 [0xFF, 0x81] s0).setI 0x300, _, _, by decide, by decide, by decide, rfl, rfl, rfl⟩

theorem witness_KeySkips : (5 : Nibble).toNat = (regs [(1, 0xF5)] s0).v[(1 : Nibble).toNat].toNat % 16 := by decide

theorem witness_KeyWaitProtocol : s0.fault = .none ∧ (∃ w, exec (.ldVxK 15) s0 = .next w) ∧ s0.keys[(2 : Nibble).toNat] = false ∧ (9 : Nibble) ≠ 2 :=
  ⟨rfl, ⟨_, rfl⟩, by decide, by decide⟩

/-- A core about to execute an unknown word. -/
def atUnknown : State := bytes 0x200 [0x80, 0x08] s0

theorem witness_UnknownSkipsWithDiagnostic : atUnknown.fault = .none ∧ atUnknown.wait = none ∧ atUnknown.pc.toNat ≤ 0xFFE
    ∧ decodeWord atUnknown.fetchWord = .unknown atUnknown.fetchWord ∧ stepDiag atUnknown = some ⟨0x8008, 0x200⟩ := by decide

theorem witness_RegisterFrame : (∃ t, exec (.addVxVy 1 2) s0 = .next t) ∧ writesReg (.addVxVy 1 2) 2 = false
    ∧ (∃ t, exec (.ldVxMem 3) s0 = .next t) ∧ writesReg (.ldVxMem 3) 4 = false := ⟨⟨_, rfl⟩, by decide, ⟨_, rfl⟩, by decide⟩

theorem witness_MemoryFrame : (∃ t, exec (.ldBVx 1) (s0.setI 0x300) = .next t) ∧ ¬ storesTo (.ldBVx 1) (s0.setI 0x300) 0x2FF
    ∧ ¬ storesTo (.ldBVx 1) (s0.setI 0x300) 0x303 ∧ ¬ storesTo (.jp 0x200) (s0.setI 0x300) 0x300 := by
  refine ⟨⟨_, rfl⟩, ?_, ?_, ?_⟩ <;> unfold storesTo <;> decide

theorem witness_OtherStateFrame : (∃ t, exec (.addVxByte 1 2) s0 = .next t) ∧ writesIndex (.addVxByte 1 2) = false
    ∧ writesDisplay (.addVxByte 1 2) = false ∧ (∀ a, Instr.addVxByte 1 2 ≠ .call a) ∧ Instr.addVxByte 1 2 ≠ .ret
    ∧ (∀ x, Instr.addVxByte 1 2 ≠ .ldDtVx x) ∧ (∀ x, Instr.addVxByte 1 2 ≠ .ldStVx x) ∧ (∀ x, Instr.addVxByte 1 2 ≠ .ldVxK x)
    ∧ ∀ x b, Instr.addVxByte 1 2 ≠ .rndVxByte x b := by
  refine ⟨⟨_, rfl⟩, ?_⟩
  simp [writesIndex, writesDisplay]

theorem witness_PcSequencing : (∃ t, exec (.seVxByte 0 0) s0 = .next t) ∧ faultOf (.seVxByte 0 0) s0 = none
    ∧ (∃ t, exec .ret s0 = .next t) ∧ faultOf .ret s0 ≠ none := ⟨⟨_, rfl⟩, by decide, ⟨_, rfl⟩, by decide⟩

theorem witness_ReadsOnlyItsRegisters : readsReg (.addVxVy 1 2) 15 = false ∧ (∃ t, exec (.addVxVy 1 2) s0 = .next t)
    ∧ readsReg (.addVxVy 1 2) 3 = false := ⟨by decide, ⟨_, rfl⟩, by decide⟩

theorem witness_StepLeavesKeysAndTimers :
    (∃ t, step (regs [(1, 0x3C)] (bytes 0x200 [0xF1, 0x15] s0)) = .next t ∧ t.dt ≠ s0.dt)
    ∧ ∃ t, step (regs [(1, 0x3C)] (bytes 0x200 [0xF1, 0x18] s0)) = .next t ∧ t.st ≠ s0.st :=
  ⟨⟨_, rfl, by decide⟩, ⟨_, rfl, by decide⟩⟩

theorem witness_LoadImageVerbatim : (List.replicate 3584 (0xAA : Byte)).length ≤ 3584 ∧ 3584 < (List.replicate 3585 (0xAA : Byte)).length :=
  ⟨(List.length_replicate).le, by rw [List.length_replicate]; decide⟩

/-- A core in a key wait that meets the invariant, and a Step from it. -/
theorem witness_StepKeepsInvariant : (waiting (some 2)).Inv ∧ ∃ t, step (waiting (some 2)) = .next t :=
  ⟨⟨by decide, by decide, by decide, by decide, by decide, fun x h => ⟨by decide, by
    have hx : x = 15 := by simpa [waiting, State.setWait, State.setKeyEvent] using h.symm
    subst hx; decide⟩⟩, _, rfl⟩

theorem witness_EveryRunKeepsInvariant : Session.Inv ⟨.running, waiting none⟩
    ∧ ∃ z, runOps [.setKey 3 true, .step, .tick, .step] ⟨.running, waiting none⟩ = .next z := by
  refine ⟨fun _ => ⟨⟨by decide, by decide, by decide, by decide, by decide, fun x h => ⟨by decide, ?_⟩⟩, fun h => absurd rfl h⟩, _, rfl⟩
  have hx : x = 15 := by simpa [waiting, State.setWait, State.setKeyEvent] using h.symm
  subst hx; decide

theorem witness_FaultStaysUntilReset : (⟨.running, s0.setFault .memRange⟩ : Session).phase = .running
    ∧ (⟨.running, s0.setFault .memRange⟩ : Session).core.fault ≠ .none ∧ Op.reset ∉ [Op.tick, .step, .setKey 1 true]
    ∧ ∃ z, runOps [Op.tick, .step, .setKey 1 true] ⟨.running, s0.setFault .memRange⟩ = .next z :=
  ⟨rfl, by decide, by decide, _, rfl⟩

theorem witness_HostProtocol : Op.step ≠ .reset ∧ Op.tick ≠ .reset ∧ (List.replicate 3584 (0xAA : Byte)).length ≤ 3584
    ∧ 3584 < (List.replicate 3585 (0xAA : Byte)).length ∧ Phase.running ≠ .off ∧ Phase.ready ≠ .off :=
  ⟨by decide, by decide, (List.length_replicate).le, by rw [List.length_replicate]; decide, by decide, by decide⟩

theorem witness_SelfJumpIdles : (bytes 0x200 [0x12, 0x00] s0).fault = .none ∧ (bytes 0x200 [0x12, 0x00] s0).wait = none
    ∧ (bytes 0x200 [0x12, 0x00] s0).pc.toNat ≤ 0xFFE
    ∧ (bytes 0x200 [0x12, 0x00] s0).fetchWord = 0x1000#16 ||| (bytes 0x200 [0x12, 0x00] s0).pc := by decide

end Sys2Proof.Tests
end

section
/-! Encoding and decoding agree (R104): O1. A field of a word is `n` bits at offset `s`, so the laws of the fields are stated once,
for every offset and width; then the formats, then the rows of the opcode map family by family. -/

namespace Sys2Proof

/-! ### Fields at an offset (R92) -/

/-- An `n`-bit field placed at bit `s` of an otherwise zero word. -/
def placeAt (s : Nat) {n : Nat} (f : BitVec n) : Word := f.setWidth 16 <<< s

theorem placeAddr_eq (addr : Addr) : placeAddr addr = placeAt 0 addr := by simp [placeAddr, placeAt]
theorem placeX_eq (x : Nibble) : placeX x = placeAt 8 x := rfl
theorem placeY_eq (y : Nibble) : placeY y = placeAt 4 y := rfl
theorem placeN_eq (n : Nibble) : placeN n = placeAt 0 n := by simp [placeN, placeAt]
theorem placeB_eq (b : Byte) : placeB b = placeAt 0 b := by simp [placeB, placeAt]

variable {s s' n n' : Nat}

theorem getLsbD_placeAt (f : BitVec n) (j : Nat) :
    (placeAt s f).getLsbD j = (decide (j < 16) && decide (s ≤ j) && f.getLsbD (j - s)) := by
  simp only [placeAt, BitVec.getLsbD_shiftLeft, BitVec.getLsbD_setWidth]
  grind

/-- A placed field is read back where it was placed. -/
@[simp] theorem extractLsb'_placeAt_same (f : BitVec n) (h : s + n ≤ 16) : (placeAt s f).extractLsb' s n = f := by
  refine BitVec.eq_of_getLsbD_eq fun j hj => ?_
  rw [BitVec.getLsbD_extractLsb', getLsbD_placeAt]
  simp [hj, show s + j < 16 by omega]

/-- Outside the bits it was placed at, a field reads as 0. -/
@[simp] theorem extractLsb'_placeAt_disjoint (f : BitVec n) (h : s + n ≤ s' ∨ s' + n' ≤ s) :
    (placeAt s f).extractLsb' s' n' = 0#n' := by
  ext j hj
  simp only [BitVec.getElem_extractLsb', getLsbD_placeAt, BitVec.getElem_zero]
  rcases h with h | h
  · simp [BitVec.getLsbD_of_ge f (s' + j - s) (by omega)]
  · simp [show ¬ s ≤ s' + j by omega]

/-- A mask with no bit of the field removes it. -/
@[simp] theorem placeAt_and_eq_zero (f : BitVec n) {m : Word} (h : m.extractLsb' s n = 0#n) : placeAt s f &&& m = 0#16 := by
  refine BitVec.eq_of_getLsbD_eq fun j hj => ?_
  simp only [BitVec.getLsbD_and, getLsbD_placeAt, BitVec.getLsbD_zero]
  by_cases hs : s ≤ j ∧ j - s < n
  · have hm : m.getLsbD j = false := by
      simpa [hs, show s + (j - s) = j by omega] using congrArg (·.getLsbD (j - s)) h
    rw [hm, Bool.and_false]
  · by_cases hj' : s ≤ j
    · simp [BitVec.getLsbD_of_ge f (j - s) (by omega)]
    · simp [hj']

/-- Reading a field and placing it again keeps the word's bits there. -/
theorem placeAt_extractLsb' (op : Word) : placeAt s (op.extractLsb' s n) = op &&& placeAt s (BitVec.allOnes n) := by
  refine BitVec.eq_of_getLsbD_eq fun j hj => ?_
  simp only [BitVec.getLsbD_and, getLsbD_placeAt, BitVec.getLsbD_extractLsb', BitVec.getLsbD_allOnes]
  by_cases hs : s ≤ j
  · simp [hs, hj, Bool.and_comm]
  · simp [hs]

theorem placeAddr_opAddr (op : Word) : placeAddr (opAddr op) = op &&& 0x0FFF#16 := by
  rw [placeAddr_eq]; exact placeAt_extractLsb' op
theorem placeX_opX (op : Word) : placeX (opX op) = op &&& 0x0F00#16 := placeAt_extractLsb' op
theorem placeY_opY (op : Word) : placeY (opY op) = op &&& 0x00F0#16 := placeAt_extractLsb' op
theorem placeN_opN (op : Word) : placeN (opN op) = op &&& 0x000F#16 := by
  rw [placeN_eq]; exact placeAt_extractLsb' op
theorem placeB_opB (op : Word) : placeB (opB op) = op &&& 0x00FF#16 := by
  rw [placeB_eq]; exact placeAt_extractLsb' op

/-- The field of a word that a mask covers is that of the masked word. -/
theorem extractLsb'_of_and {op m k : Word} (h : op &&& m = k) (hm : m.extractLsb' s n = BitVec.allOnes n) :
    op.extractLsb' s n = k.extractLsb' s n := by
  rw [← h, BitVec.extractLsb'_and, hm, BitVec.and_allOnes]

/-- A field outside the mask of a masked word is 0. -/
theorem extractLsb'_eq_zero_of_and {op m k : Word} (h : op &&& m = k) (hm : m.extractLsb' s n = 0#n) : k.extractLsb' s n = 0#n := by
  rw [← h, BitVec.extractLsb'_and, hm, BitVec.and_zero]

/-! ### Re-encoding a decoded word: a row's pattern with the word's own fields is the word's relevant bits, by formats -/

variable {op k : Word}

theorem reencode_addr (h : op &&& 0xF000#16 = k) : k ||| placeAddr (opAddr op) = op &&& 0xFFFF#16 := by
  rw [← h, placeAddr_opAddr, ← BitVec.and_or_distrib_left]; rfl

theorem reencode_xb (h : op &&& 0xF000#16 = k) : k ||| placeX (opX op) ||| placeB (opB op) = op &&& 0xFFFF#16 := by
  rw [← h, placeX_opX, placeB_opB, ← BitVec.and_or_distrib_left, ← BitVec.and_or_distrib_left]; rfl

theorem reencode_xyn (h : op &&& 0xF000#16 = k) :
    k ||| placeX (opX op) ||| placeY (opY op) ||| placeN (opN op) = op &&& 0xFFFF#16 := by
  rw [← h, placeX_opX, placeY_opY, placeN_opN]; simp only [← BitVec.and_or_distrib_left]; rfl

/-- The format of the two register skips, which ignore the low nibble (R98). -/
theorem reencode_xy_skip (h : op &&& 0xF000#16 = k) : k ||| placeX (opX op) ||| placeY (opY op) = op &&& 0xFFF0#16 := by
  rw [← h, placeX_opX, placeY_opY, ← BitVec.and_or_distrib_left, ← BitVec.and_or_distrib_left]; rfl

theorem reencode_xy (h : op &&& 0xF00F#16 = k) : k ||| placeX (opX op) ||| placeY (opY op) = op &&& 0xFFFF#16 := by
  rw [← h, placeX_opX, placeY_opY, ← BitVec.and_or_distrib_left, ← BitVec.and_or_distrib_left]; rfl

/-- The format of the shifts and key skips, which ignore bits 7:4 (R98). -/
theorem reencode_x_low (h : op &&& 0xF00F#16 = k) : k ||| placeX (opX op) = op &&& 0xFF0F#16 := by
  rw [← h, placeX_opX, ← BitVec.and_or_distrib_left]; rfl

theorem reencode_x_lowByte (h : op &&& 0xF0FF#16 = k) : k ||| placeX (opX op) = op &&& 0xFFFF#16 := by
  rw [← h, placeX_opX, ← BitVec.and_or_distrib_left]; rfl

/-- Re-encoding what row `r` builds from a word it matches gives the word's relevant bits. -/
def OpRow.Reencodes (r : OpRow) : Prop :=
  ∀ op : Word, op &&& r.mask = r.pattern → encode (r.build op) = op &&& relevantBits (r.build op)

theorem reencodes_exactRows : ∀ r ∈ exactRows, r.Reencodes := by
  simp only [exactRows, List.forall_mem_cons]
  exact ⟨fun _ h => h.symm, fun _ h => h.symm, by simp⟩

theorem reencodes_topNibbleRows : ∀ r ∈ topNibbleRows, r.Reencodes := by
  simp only [topNibbleRows, List.forall_mem_cons]
  exact ⟨fun _ => reencode_addr, fun _ => reencode_addr, fun _ => reencode_addr, fun _ => reencode_xb, fun _ => reencode_xb,
    fun _ => reencode_xy_skip, fun _ => reencode_xb, fun _ => reencode_xb, fun _ => reencode_xy_skip, fun _ => reencode_addr,
    fun _ => reencode_addr, fun _ => reencode_xb, fun _ => reencode_xyn, by simp⟩

theorem reencodes_eightRows : ∀ r ∈ eightRows, r.Reencodes := by
  simp only [eightRows, List.forall_mem_cons]
  exact ⟨fun _ => reencode_xy, fun _ => reencode_xy, fun _ => reencode_xy, fun _ => reencode_xy, fun _ => reencode_xy,
    fun _ => reencode_xy, fun _ => reencode_x_low, fun _ => reencode_xy, fun _ => reencode_x_low, by simp⟩

theorem reencodes_keyRows : ∀ r ∈ keyRows, r.Reencodes := by
  simp only [keyRows, List.forall_mem_cons]
  exact ⟨fun _ => reencode_x_low, fun _ => reencode_x_low, by simp⟩

theorem reencodes_effRows : ∀ r ∈ effRows, r.Reencodes := by
  simp only [effRows, List.forall_mem_cons]
  exact ⟨fun _ => reencode_x_lowByte, fun _ => reencode_x_lowByte, fun _ => reencode_x_lowByte, fun _ => reencode_x_lowByte,
    fun _ => reencode_x_lowByte, fun _ => reencode_x_lowByte, fun _ => reencode_x_lowByte, fun _ => reencode_x_lowByte,
    fun _ => reencode_x_lowByte, by simp⟩

theorem reencodes_opcodeMap : ∀ r ∈ opcodeMap, r.Reencodes := by
  simp only [opcodeMap, List.forall_mem_append]
  exact ⟨⟨⟨⟨reencodes_exactRows, reencodes_topNibbleRows⟩, reencodes_eightRows⟩, reencodes_keyRows⟩, reencodes_effRows⟩

theorem encode_decodeWord (op : Word) : encode (decodeWord op) = op &&& relevantBits (decodeWord op) := by
  rcases decodeWith_cases opcodeMap op with ⟨r, hr, hm, hb⟩ | ⟨-, hb⟩
  · rw [decodeWord, hb]; exact reencodes_opcodeMap r hr op hm
  · rw [decodeWord, hb]; exact (and_full op).symm

/-! ### Unknown words -/

theorem opcodeMap_mask_top : ∀ r ∈ opcodeMap, r.mask.extractLsb' 12 4 = BitVec.allOnes 4 := by decide

/-- A row fixes as many low bits as tell its words from the unknown ones: in the families with unknown words the low nibble, and in
the nibble-F family the low byte. -/
theorem opcodeMap_mask_low : ∀ r ∈ opcodeMap,
    r.pattern.extractLsb' 12 4 ∉ [8, 14, 15]
    ∨ r.mask.extractLsb' 0 4 = BitVec.allOnes 4
      ∧ (r.mask.extractLsb' 0 8 = BitVec.allOnes 8 ∨ r.pattern.extractLsb' 12 4 ≠ 15) := by decide

theorem opcodeMap_pattern_known : ∀ r ∈ opcodeMap, isUnknownWord r.pattern = false := by decide

/-- A word that some row matches is none of R100's unknown words. -/
theorem isUnknownWord_of_matches {r : OpRow} (hr : r ∈ opcodeMap) (h : op &&& r.mask = r.pattern) : isUnknownWord op = false := by
  have hp := opcodeMap_pattern_known r hr
  have htop := extractLsb'_of_and h (opcodeMap_mask_top r hr)
  rcases opcodeMap_mask_low r hr with hne | ⟨hm, hm' | hne⟩
  · simp_all [isUnknownWord]
  · simpa only [isUnknownWord, htop, extractLsb'_of_and h hm, extractLsb'_of_and h hm'] using hp
  · simp_all [isUnknownWord, extractLsb'_of_and h hm]

/-- Every one of R100's words decodes to the unknown sentinel. -/
theorem decodeWord_unknown (h : isUnknownWord op = true) : decodeWord op = .unknown op := by
  rcases decodeWith_cases opcodeMap op with ⟨r, hr, hm, -⟩ | ⟨-, hb⟩
  · rw [isUnknownWord_of_matches hr hm] at h
    contradiction
  · exact hb

/-! ### Decoding an encoded instruction: the word matches its row and each field is read back, by formats. A format's lemma takes
its row's law of the decoder; `hk` says that the row's pattern lies in the row's mask. -/

theorem and_mask_encoded_addr (hk : k &&& 0xF000#16 = k) (addr : Addr) : (k ||| placeAddr addr) &&& 0xF000#16 = k := by
  simp [placeAddr_eq, BitVec.and_or_distrib_right, hk]

theorem opAddr_encoded_addr (hk : k &&& 0xF000#16 = k) (addr : Addr) : opAddr (k ||| placeAddr addr) = addr := by
  simp [opAddr, placeAddr_eq, BitVec.extractLsb'_or, extractLsb'_eq_zero_of_and hk]

theorem decode_encoded_addr {build : Addr → Instr} (row : ∀ {op}, op &&& 0xF000#16 = k → decodeWord op = build (opAddr op))
    (hk : k &&& 0xF000#16 = k) (addr : Addr) : decodeWord (k ||| placeAddr addr) = build addr := by
  rw [row (and_mask_encoded_addr hk addr), opAddr_encoded_addr hk addr]

theorem decode_encoded_xb {build : Nibble → Byte → Instr}
    (row : ∀ {op}, op &&& 0xF000#16 = k → decodeWord op = build (opX op) (opB op)) (hk : k &&& 0xF000#16 = k) (x : Nibble) (b : Byte) :
    decodeWord (k ||| placeX x ||| placeB b) = build x b := by
  rw [row]
  · simp [opX, opB, placeX_eq, placeB_eq, BitVec.extractLsb'_or, extractLsb'_eq_zero_of_and hk]
  · simp [placeX_eq, placeB_eq, BitVec.and_or_distrib_right, hk]

theorem decode_encoded_xyn {build : Nibble → Nibble → Nibble → Instr}
    (row : ∀ {op}, op &&& 0xF000#16 = k → decodeWord op = build (opX op) (opY op) (opN op)) (hk : k &&& 0xF000#16 = k)
    (x y n : Nibble) : decodeWord (k ||| placeX x ||| placeY y ||| placeN n) = build x y n := by
  rw [row]
  · simp [opX, opY, opN, placeX_eq, placeY_eq, placeN_eq, BitVec.extractLsb'_or, extractLsb'_eq_zero_of_and hk]
  · simp [placeX_eq, placeY_eq, placeN_eq, BitVec.and_or_distrib_right, hk]

/-- For either mask of a row with two registers: `m` is the row's mask. -/
theorem decode_encoded_xy {m : Word} {build : Nibble → Nibble → Instr}
    (row : ∀ {op}, op &&& m = k → decodeWord op = build (opX op) (opY op)) (hk : k &&& m = k) (x y : Nibble)
    (hx : m.extractLsb' 8 4 = 0#4 := by rfl) (hy : m.extractLsb' 4 4 = 0#4 := by rfl) :
    decodeWord (k ||| placeX x ||| placeY y) = build x y := by
  rw [row]
  · simp [opX, opY, placeX_eq, placeY_eq, BitVec.extractLsb'_or, extractLsb'_eq_zero_of_and hk, hx, hy]
  · simp [placeX_eq, placeY_eq, BitVec.and_or_distrib_right, hk, hx, hy]

/-- For either mask of a row with one register: `m` is the row's mask. -/
theorem decode_encoded_x {m : Word} {build : Nibble → Instr} (row : ∀ {op}, op &&& m = k → decodeWord op = build (opX op))
    (hk : k &&& m = k) (x : Nibble) (hx : m.extractLsb' 8 4 = 0#4 := by rfl) : decodeWord (k ||| placeX x) = build x := by
  rw [row]
  · simp [opX, placeX_eq, BitVec.extractLsb'_or, extractLsb'_eq_zero_of_and hk hx]
  · simp [placeX_eq, BitVec.and_or_distrib_right, hk, hx]

/-- `SYS` but for the addresses of `CLS` and `RET`: the two exact rows come first (R97). -/
theorem decodeWord_encode_sys {addr : Addr} (hcls : addr ≠ 0x0E0) (hret : addr ≠ 0x0EE) :
    decodeWord (encode (.sys addr)) = .sys addr := by
  have hm : encode (.sys addr) &&& 0xF000#16 = 0x0000#16 := and_mask_encoded_addr rfl addr
  have ha : opAddr (encode (.sys addr)) = addr := opAddr_encoded_addr rfl addr
  have h1 : encode (.sys addr) ≠ 0x00E0#16 := fun h => hcls (ha.symm.trans (congrArg opAddr h))
  have h2 : encode (.sys addr) ≠ 0x00EE#16 := fun h => hret (ha.symm.trans (congrArg opAddr h))
  rw [decodeWord_sys hm h1 h2, ha]

theorem decodeWord_encode {i : Instr} (h : i.wellFormed = true) : decodeWord (encode i) = i := by
  cases i with
  | cls | ret => decide
  | sys addr =>
    simp only [Instr.wellFormed, Bool.and_eq_true, bne_iff_ne] at h
    exact decodeWord_encode_sys h.1 h.2
  | unknown op => exact decodeWord_unknown h
  | jp addr => exact decode_encoded_addr decodeWord_jp rfl addr
  | call addr => exact decode_encoded_addr decodeWord_call rfl addr
  | ldIAddr addr => exact decode_encoded_addr decodeWord_ldIAddr rfl addr
  | jpV0Addr addr => exact decode_encoded_addr decodeWord_jpV0Addr rfl addr
  | seVxByte x b => exact decode_encoded_xb decodeWord_seVxByte rfl x b
  | sneVxByte x b => exact decode_encoded_xb decodeWord_sneVxByte rfl x b
  | ldVxByte x b => exact decode_encoded_xb decodeWord_ldVxByte rfl x b
  | addVxByte x b => exact decode_encoded_xb decodeWord_addVxByte rfl x b
  | rndVxByte x b => exact decode_encoded_xb decodeWord_rndVxByte rfl x b
  | seVxVy x y => exact decode_encoded_xy decodeWord_seVxVy rfl x y
  | sneVxVy x y => exact decode_encoded_xy decodeWord_sneVxVy rfl x y
  | drwVxVyN x y n => exact decode_encoded_xyn decodeWord_drwVxVyN rfl x y n
  | ldVxVy x y => exact decode_encoded_xy decodeWord_ldVxVy rfl x y
  | orVxVy x y => exact decode_encoded_xy decodeWord_orVxVy rfl x y
  | andVxVy x y => exact decode_encoded_xy decodeWord_andVxVy rfl x y
  | xorVxVy x y => exact decode_encoded_xy decodeWord_xorVxVy rfl x y
  | addVxVy x y => exact decode_encoded_xy decodeWord_addVxVy rfl x y
  | subVxVy x y => exact decode_encoded_xy decodeWord_subVxVy rfl x y
  | subnVxVy x y => exact decode_encoded_xy decodeWord_subnVxVy rfl x y
  | shrVx x => exact decode_encoded_x decodeWord_shrVx rfl x
  | shlVx x => exact decode_encoded_x decodeWord_shlVx rfl x
  | skpVx x => exact decode_encoded_x decodeWord_skpVx rfl x
  | sknpVx x => exact decode_encoded_x decodeWord_sknpVx rfl x
  | ldVxDt x => exact decode_encoded_x decodeWord_ldVxDt rfl x
  | ldVxK x => exact decode_encoded_x decodeWord_ldVxK rfl x
  | ldDtVx x => exact decode_encoded_x decodeWord_ldDtVx rfl x
  | ldStVx x => exact decode_encoded_x decodeWord_ldStVx rfl x
  | addIVx x => exact decode_encoded_x decodeWord_addIVx rfl x
  | ldFVx x => exact decode_encoded_x decodeWord_ldFVx rfl x
  | ldBVx x => exact decode_encoded_x decodeWord_ldBVx rfl x
  | ldMemVx x => exact decode_encoded_x decodeWord_ldMemVx rfl x
  | ldVxMem x => exact decode_encoded_x decodeWord_ldVxMem rfl x

/-- A word laid out in memory order, followed by anything, decodes as the word and leaves the rest (R64, R90). -/
theorem decode_bytesOfWord (w : Word) (rest : List Byte) :
    decode ((bytesOfWord w).1 :: (bytesOfWord w).2 :: rest) = .ok (decodeWord w, rest) := by
  rw [decode, Machine.wordOfBytes_bytesOfWord]

/-- Settles O1: the round trip instruction by instruction through its row's format, the two `SYS` exceptions by evaluation, and the
re-encoding row by row of the opcode map. -/
theorem decodeEncodeRoundTrip : Obligations.DecodeEncodeRoundTrip := by
  refine ⟨fun i rest hi => ?_, by decide, by decide, encode_decodeWord⟩
  rw [decode_bytesOfWord, decodeWord_encode hi]

end Sys2Proof
end

section
/-! A Step is exec of the decoded instruction (R125): O6. What it needs of the decoder is that every word decodes to a term some word
stands for: R100's list and the opcode map cover all words, each family of rows by the bits it tells its words apart by. -/

namespace Sys2Proof

variable {op : Word}

/-! ### The opcode map has a row for every word that R100 does not list -/

theorem and_top_eq (op : Word) : op &&& 0xF000#16 = placeAt 12 (op.extractLsb' 12 4) := by
  rw [placeAt_extractLsb']; rfl

theorem and_top_low_eq (op : Word) : op &&& 0xF00F#16 = placeAt 12 (op.extractLsb' 12 4) ||| placeAt 0 (op.extractLsb' 0 4) := by
  rw [placeAt_extractLsb', placeAt_extractLsb', ← BitVec.and_or_distrib_left]; rfl

theorem and_top_lowByte_eq (op : Word) :
    op &&& 0xF0FF#16 = placeAt 12 (op.extractLsb' 12 4) ||| placeAt 0 (op.extractLsb' 0 8) := by
  rw [placeAt_extractLsb', placeAt_extractLsb', ← BitVec.and_or_distrib_left]; rfl

/-- Outside the families 8, E and F every top nibble has a row of its own. -/
theorem topNibble_has_row : ∀ t : BitVec 4, t ∉ [8, 14, 15] → ∃ r ∈ opcodeMap, r.mask = 0xF000#16 ∧ r.pattern = placeAt 12 t := by
  decide

/-- In the families 8 and E every low nibble that R100 does not list has a row. -/
theorem lowNibble_has_row : ∀ t ∈ [8#4, 14#4], ∀ l : BitVec 4, isUnknownWord (placeAt 12 t ||| placeAt 0 l) = false →
    ∃ r ∈ opcodeMap, r.mask = 0xF00F#16 ∧ r.pattern = placeAt 12 t ||| placeAt 0 l := by
  decide

/-- In the family F every low byte of the nine has a row. -/
theorem lowByte_has_row : ∀ b ∈ [0x07#8, 0x0A#8, 0x15#8, 0x18#8, 0x1E#8, 0x29#8, 0x33#8, 0x55#8, 0x65#8],
    ∃ r ∈ opcodeMap, r.mask = 0xF0FF#16 ∧ r.pattern = placeAt 12 15#4 ||| placeAt 0 b := by
  decide

/-- A word that is none of R100's matches some row. -/
theorem exists_row_of_not_unknown (h : isUnknownWord op = false) : ∃ r ∈ opcodeMap, op &&& r.mask = r.pattern := by
  by_cases ht : op.extractLsb' 12 4 ∈ [8#4, 14#4, 15#4]
  · by_cases hF : op.extractLsb' 12 4 = 15#4
    · have hb : op.extractLsb' 0 8 ∈ [0x07#8, 0x0A#8, 0x15#8, 0x18#8, 0x1E#8, 0x29#8, 0x33#8, 0x55#8, 0x65#8] := by
        simpa [isUnknownWord, hF, or_iff_not_imp_left] using h
      obtain ⟨r, hr, hm, hp⟩ := lowByte_has_row _ hb
      exact ⟨r, hr, by rw [hm, hp, and_top_lowByte_eq, hF]⟩
    · have ht' : op.extractLsb' 12 4 ∈ [8#4, 14#4] := by simpa [hF] using ht
      have hu : isUnknownWord (placeAt 12 (op.extractLsb' 12 4) ||| placeAt 0 (op.extractLsb' 0 4)) = false := by
        simpa [isUnknownWord, BitVec.extractLsb'_or, hF] using h
      obtain ⟨r, hr, hm, hp⟩ := lowNibble_has_row _ ht' _ hu
      exact ⟨r, hr, by rw [hm, hp, and_top_low_eq]⟩
  · obtain ⟨r, hr, hm, hp⟩ := topNibble_has_row _ ht
    exact ⟨r, hr, by rw [hm, hp, and_top_eq]⟩

/-! ### Every word decodes to a well-formed instruction -/

/-- No row builds the unknown sentinel. -/
theorem opcodeMap_build_ne_unknown (op w : Word) : ∀ r ∈ opcodeMap, r.build op ≠ .unknown w := by
  simp [opcodeMap, exactRows, topNibbleRows, eightRows, keyRows, effRows]

/-- Only R100's words decode to the unknown sentinel, which carries the word. -/
theorem isUnknownWord_of_decodeWord {w : Word} (h : decodeWord op = .unknown w) : isUnknownWord w = true := by
  rcases decodeWith_cases opcodeMap op with ⟨r, hr, -, hb⟩ | ⟨hn, hb⟩
  · exact absurd (hb.symm.trans h) (opcodeMap_build_ne_unknown op w r hr)
  · obtain rfl : op = w := Instr.unknown.inj (hb.symm.trans h)
    by_contra hu
    obtain ⟨r, hr, hm⟩ := exists_row_of_not_unknown (Bool.eq_false_iff.2 hu)
    exact hn r hr hm

/-- A word that decodes to `SYS` is its encoding. -/
theorem encode_sys_of_decodeWord {addr : Addr} (h : decodeWord op = .sys addr) : encode (.sys addr) = op := by
  have he := encode_decodeWord op
  rw [h] at he
  exact he.trans (and_full op)

/-- Every word decodes to a term some word stands for: the addresses of `CLS` and `RET` are taken by their exact rows (R97). -/
theorem decodeWord_wellFormed (op : Word) : (decodeWord op).wellFormed = true := by
  cases h : decodeWord op with
  | sys addr =>
    have he := encode_sys_of_decodeWord h
    have hcls : addr ≠ 0x0E0#12 := by rintro rfl; subst he; exact absurd h (by decide)
    have hret : addr ≠ 0x0EE#12 := by rintro rfl; subst he; exact absurd h (by decide)
    simp [Instr.wellFormed, hcls, hret]
  | unknown w => exact isUnknownWord_of_decodeWord h
  | _ => rfl

/-- The two bytes at the pc decode as the fetched word, with nothing left over (R64, R124). -/
theorem decode_fetched (s : Machine.State) :
    decode [Machine.Memory.read s.mem s.pc.toNat, Machine.Memory.read s.mem (s.pc.toNat + 1)]
      = .ok (decodeWord s.fetchWord, []) := rfl

/-- Settles O6: the bytes at the pc decode as the fetched word, which a ready core executes. -/
theorem stepRunsDecodedInstruction : Obligations.StepRunsDecodedInstruction := by
  intro s i hf hw hp hd
  rw [decode_fetched] at hd
  cases hd
  exact ⟨decodeWord_wellFormed _, Machine.step_of_ready hf hw hp⟩

end Sys2Proof
end

section
/-! Control flow (spec/41_control_flow.md): O12. A skip is one operation of the model, `State.skipIf`, so its whole next state is said
once, for any condition; each compare-and-skip instruction then only names its comparison. -/

namespace Sys2Proof

open Machine

/-- The whole state after a conditional skip (R147), its Boolean test replaced by the condition it decides. -/
theorem skipIf_eq_of_iff {c : Bool} {p : Prop} [Decidable p] (hc : c = true ↔ p) (s : State) :
    s.skipIf c = { s with pc := if p then s.pc + 4 else s.pc + 2 } := by
  simp only [State.skipIf, State.setPc, hc]

variable (x y : Nibble) (b : Byte) (s : State)

/-- SE Vx, byte (R148). -/
theorem exec_seVxByte :
    exec (.seVxByte x b) s = .next { s with pc := if s.readV x = b then s.pc + 4 else s.pc + 2 } :=
  congrArg Host.Outcome.next (skipIf_eq_of_iff beq_iff_eq s)

/-- SNE Vx, byte (R150). -/
theorem exec_sneVxByte :
    exec (.sneVxByte x b) s = .next { s with pc := if s.readV x ≠ b then s.pc + 4 else s.pc + 2 } :=
  congrArg Host.Outcome.next (skipIf_eq_of_iff bne_iff_ne s)

/-- SE Vx, Vy (R152). -/
theorem exec_seVxVy :
    exec (.seVxVy x y) s = .next { s with pc := if s.readV x = s.readV y then s.pc + 4 else s.pc + 2 } :=
  congrArg Host.Outcome.next (skipIf_eq_of_iff beq_iff_eq s)

/-- SNE Vx, Vy (R154). -/
theorem exec_sneVxVy :
    exec (.sneVxVy x y) s = .next { s with pc := if s.readV x ≠ s.readV y then s.pc + 4 else s.pc + 2 } :=
  congrArg Host.Outcome.next (skipIf_eq_of_iff bne_iff_ne s)

/-- Settles O12: the words by their rows of the opcode map, the next states by the skip of each instruction's comparison. -/
theorem compareAndSkip : Obligations.CompareAndSkip :=
  ⟨fun _ => decodeWord_seVxByte, fun _ => decodeWord_sneVxByte, fun _ => decodeWord_seVxVy, fun _ => decodeWord_sneVxVy,
    fun x y b s => ⟨exec_seVxByte x b s, exec_sneVxByte x b s, exec_seVxVy x y s, exec_sneVxVy x y s⟩⟩

end Sys2Proof
end

section
/-! Registers and logic (spec/42_alu.md sections 2 and 3): O17 and O18. Each of these instructions writes one register and falls
through, so that state is said once, for any byte written; each instruction then only names its byte. -/

namespace Sys2Proof

open Machine

/-- The whole state after a register write that falls through (R20, R26): every field but the registers and the pc is kept. -/
theorem advance_writeV (s : State) (x : Nibble) (r : Byte) :
    (s.writeV x r).advance = { s with v := s.v.set x.toNat r, pc := s.pc + 2 } := rfl

/-- The 8-bit sum of R162 in unbounded integers, reduced modulo 256. -/
theorem byte_add_eq_ofNat_mod (a b : Byte) : a + b = BitVec.ofNat 8 ((a.toNat + b.toNat) % 256) :=
  BitVec.eq_of_toNat_eq (by simp)

variable (x y : Nibble) (b : Byte) (s : State)

/-- LD Vx, byte (R160). -/
theorem exec_ldVxByte : exec (.ldVxByte x b) s = .next { s with v := s.v.set x.toNat b, pc := s.pc + 2 } :=
  congrArg Host.Outcome.next (advance_writeV s x b)

/-- ADD Vx, byte (R162). -/
theorem exec_addVxByte :
    exec (.addVxByte x b) s = .next { s with
      v := s.v.set x.toNat (BitVec.ofNat 8 (((s.readV x).toNat + b.toNat) % 256)), pc := s.pc + 2 } := by
  rw [← byte_add_eq_ofNat_mod]
  exact congrArg Host.Outcome.next (advance_writeV s x (s.readV x + b))

/-- LD Vx, Vy (R164). -/
theorem exec_ldVxVy : exec (.ldVxVy x y) s = .next { s with v := s.v.set x.toNat (s.readV y), pc := s.pc + 2 } :=
  congrArg Host.Outcome.next (advance_writeV s x (s.readV y))

/-- OR Vx, Vy (R166). -/
theorem exec_orVxVy :
    exec (.orVxVy x y) s = .next { s with v := s.v.set x.toNat (s.readV x ||| s.readV y), pc := s.pc + 2 } :=
  congrArg Host.Outcome.next (advance_writeV s x (s.readV x ||| s.readV y))

/-- AND Vx, Vy (R168). -/
theorem exec_andVxVy :
    exec (.andVxVy x y) s = .next { s with v := s.v.set x.toNat (s.readV x &&& s.readV y), pc := s.pc + 2 } :=
  congrArg Host.Outcome.next (advance_writeV s x (s.readV x &&& s.readV y))

/-- XOR Vx, Vy (R170). -/
theorem exec_xorVxVy :
    exec (.xorVxVy x y) s = .next { s with v := s.v.set x.toNat (s.readV x ^^^ s.readV y), pc := s.pc + 2 } :=
  congrArg Host.Outcome.next (advance_writeV s x (s.readV x ^^^ s.readV y))

/-- Settles O17: the words by their rows of the opcode map, the next states by the byte each instruction writes, ADD's as the sum in
unbounded integers modulo 256. -/
theorem loadAndAddImmediate : Obligations.LoadAndAddImmediate :=
  ⟨fun _ => decodeWord_ldVxByte, fun _ => decodeWord_addVxByte, fun x b s => ⟨exec_ldVxByte x b s, exec_addVxByte x b s⟩⟩

/-- Settles O18: the words by their rows of the opcode map, the next states by the byte each instruction writes. -/
theorem copyAndLogic : Obligations.CopyAndLogic :=
  ⟨fun _ => decodeWord_ldVxVy, fun _ => decodeWord_orVxVy, fun _ => decodeWord_andVxVy, fun _ => decodeWord_xorVxVy,
    fun x y s => ⟨exec_ldVxVy x y s, exec_orVxVy x y s, exec_andVxVy x y s, exec_xorVxVy x y s⟩⟩

end Sys2Proof
end

section
/-! Index register (spec/43_index_memory.md section 2): O23. LD I, addr writes I and falls through, so that state is said once, for
any word written; the instruction then only names its word, the address zero-extended. -/

namespace Sys2Proof

open Machine

/-- The whole state after a write of I that falls through (R26): every field but I and the pc is kept. -/
theorem advance_setI (s : State) (w : Word) : (s.setI w).advance = { s with i := w, pc := s.pc + 2 } := rfl

/-- The zero-extended address in unbounded integers. -/
theorem zextAddr_eq_ofNat (addr : Addr) : zextAddr addr = BitVec.ofNat 16 addr.toNat := (BitVec.ofNat_toNat 16 addr).symm

/-- LD I, addr (R190). -/
theorem exec_ldIAddr (addr : Addr) (s : State) :
    exec (.ldIAddr addr) s = .next { s with i := BitVec.ofNat 16 addr.toNat, pc := s.pc + 2 } := by
  rw [← zextAddr_eq_ofNat]
  exact congrArg Host.Outcome.next (advance_setI s (zextAddr addr))

/-- Settles O23: the words by their row of the opcode map, the bound by the width of an address, the next state by the word written
to I. -/
theorem setIndex : Obligations.SetIndex :=
  ⟨fun _ => decodeWord_ldIAddr, fun addr s => ⟨Nat.le_of_lt_succ addr.isLt, exec_ldIAddr addr s⟩⟩

end Sys2Proof
end

section
/-! Display (spec/44_display.md section 2): O33. CLS writes the whole framebuffer and falls through, so that state is said once, for
any framebuffer written; the instruction then only names its framebuffer, the blank one. -/

namespace Sys2Proof

open Machine

/-- The whole state after a write of the framebuffer that falls through (R26): every field but the framebuffer and the pc is kept. -/
theorem advance_setFb (s : State) (fb : Framebuffer) : (s.setFb fb).advance = { s with fb := fb, pc := s.pc + 2 } := rfl

/-- A write of the framebuffer that is there already changes nothing. -/
theorem setFb_of_fb_eq {s : State} {fb : Framebuffer} (h : s.fb = fb) : s.setFb fb = s := by
  subst h; rfl

/-- Every pixel of the blank framebuffer is unset. -/
theorem blank_getElem {r c : Nat} (hr : r < 32) (hc : c < 64) : Framebuffer.blank[r][c] = false := by
  simp only [Framebuffer.blank, Vector.getElem_replicate]

/-- CLS (R210). -/
theorem exec_cls (s : State) : exec .cls s = .next { s with fb := Framebuffer.blank, pc := s.pc + 2 } :=
  congrArg Host.Outcome.next (advance_setFb s Framebuffer.blank)

/-- CLS on a blank display falls through and does nothing else (R210). -/
theorem exec_cls_of_blank {s : State} (h : s.fb = Framebuffer.blank) : exec .cls s = .next { s with pc := s.pc + 2 } :=
  congrArg (fun t : State => Host.Outcome.next t.advance) (setFb_of_fb_eq h)

/-- Settles O33: the word by evaluation of the decoder, the next state by the framebuffer written, the blank one, which a second CLS
finds there already. -/
theorem clearDisplay : Obligations.ClearDisplay :=
  ⟨by decide, fun s => ⟨Framebuffer.blank, exec_cls s, fun _ _ => blank_getElem, fun _ => exec_cls_of_blank⟩⟩

end Sys2Proof
end

section
/-! Host operations (spec/46_host_operations.md section 1): O48. Tick does the same thing to both timers, so that one timer's
count is said once; DT and ST each see a Tick as that count, and so n Ticks as n counts. -/

namespace Sys2Proof

open Machine Function

/-- A timer that is not at 0 loses one (R250). -/
theorem tickDown_of_ne_zero {b : Byte} (h : b ≠ 0) : tickDown b = b - 1 := if_neg h

/-- One timer's count in the form the rule gives it: only a timer that is not 0 is written (R250). -/
theorem tickDown_eq_ite (b : Byte) : tickDown b = if b ≠ 0 then b - 1 else b := by
  obtain rfl | h := eq_or_ne b 0
  · rfl
  · rw [tickDown_of_ne_zero h, if_pos h]

/-- In unbounded integers a timer's count is the predecessor, which stays at 0: no wrap to 255 (R250). -/
theorem toNat_tickDown (b : Byte) : (tickDown b).toNat = b.toNat.pred := by
  obtain rfl | h := eq_or_ne b 0
  · rfl
  · rw [tickDown_of_ne_zero h, Nat.pred_eq_sub_one]
    bv_omega

/-- The whole state after a Tick (R250): every field but the timers is kept. -/
theorem tick_eq (s : State) : s.tick = { s with
    dt := if s.dt ≠ 0 then s.dt - 1 else s.dt
    st := if s.st ≠ 0 then s.st - 1 else s.st } := by
  rw [← tickDown_eq_ite, ← tickDown_eq_ite]
  rfl

/-- DT, as a number, sees each Tick as the predecessor. -/
theorem tick_semiconj_dt : Semiconj (fun s : State => s.dt.toNat) State.tick Nat.pred := fun s => toNat_tickDown s.dt

/-- ST, as a number, sees each Tick as the predecessor. -/
theorem tick_semiconj_st : Semiconj (fun s : State => s.st.toNat) State.tick Nat.pred := fun s => toNat_tickDown s.st

/-- A number read from the state that each Tick takes to its predecessor has lost n, or is 0, after n Ticks. -/
theorem iterate_tick_eq_sub {f : State → Nat} (h : Semiconj f State.tick Nat.pred) (s : State) (n : Nat) :
    f (State.tick^[n] s) = f s - n :=
  calc f (State.tick^[n] s) = Nat.pred^[n] (f s) := h.iterate_right n s
    _ = f s - n := Nat.pred_iterate (f s) n

/-- Settles O48: one Tick by the count of each timer, n Ticks by iterating that count. -/
theorem tickCountsDown : Obligations.TickCountsDown :=
  ⟨tick_eq, fun s n => ⟨iterate_tick_eq_sub tick_semiconj_dt s n, iterate_tick_eq_sub tick_semiconj_st s n⟩⟩

end Sys2Proof
end

section
/-! What an instruction leaves, field by field: the layer that the statements over all instructions share. `State.after` says of every
field of the state what an instruction that does not fault puts into it; `exec_of_noFault` and `exec_of_fault` tie it to `exec`, once
for all instructions, and every frame and every invariant is then about one field. -/

namespace Sys2Proof

open Machine

/-- The canvas a draw of `n` rows leaves, from the framebuffer as it is and no collision yet (R212). -/
def Machine.State.drawn (s : State) (x y n : Nibble) : Canvas :=
  plotSprite ⟨s.fb, false⟩ (s.readV x).toNat (s.readV y).toNat (Memory.readBytes s.mem s.i.toNat n.toNat)

/-- The state with the instruction's register writes made and nothing else. -/
def writeRegs (i : Instr) (s : State) : State :=
  match i with
  | .ldVxByte x b => s.writeV x b
  | .addVxByte x b => s.writeV x (s.readV x + b)
  | .ldVxVy x y => s.writeV x (s.readV y)
  | .orVxVy x y => s.writeV x (s.readV x ||| s.readV y)
  | .andVxVy x y => s.writeV x (s.readV x &&& s.readV y)
  | .xorVxVy x y => s.writeV x (s.readV x ^^^ s.readV y)
  | .addVxVy x y => s.writeResultFlag x (s.readV x + s.readV y) (carryOut (s.readV x) (s.readV y))
  | .subVxVy x y => s.writeResultFlag x (s.readV x - s.readV y) (strictlyGreater (s.readV x) (s.readV y))
  | .subnVxVy x y => s.writeResultFlag x (s.readV y - s.readV x) (strictlyGreater (s.readV y) (s.readV x))
  | .shrVx x => s.writeResultFlag x (s.readV x >>> 1) (lowBit (s.readV x))
  | .shlVx x => s.writeResultFlag x (s.readV x <<< 1) (highBit (s.readV x))
  | .rndVxByte x b => s.writeV x (Config.rnd s.draws &&& b)
  | .drwVxVyN x y n => s.writeV 15 (flagByte (s.drawn x y n).hit)
  | .ldVxDt x => s.writeV x s.dt
  | .ldVxMem x => s.setV (loadBlock s x (Memory.readBytes s.mem s.i.toNat (x.toNat + 1)))
  | _ => s

/-- I after an instruction (R24). -/
def indexAfter (i : Instr) (s : State) : Word :=
  match i with
  | .ldIAddr addr => zextAddr addr
  | .addIVx x => s.i + zextByte (s.readV x)
  | .ldFVx x => glyphAddr (lowNibble (s.readV x))
  | _ => s.i

/-- The bytes an instruction stores, from I on (the write rows of R63). -/
def storedBytes (i : Instr) (s : State) : List Byte :=
  match i with
  | .ldBVx x => bcdDigits (s.readV x)
  | .ldMemVx x => regBlock s x
  | _ => []

/-- FB after an instruction (R34). -/
def displayAfter (i : Instr) (s : State) : Framebuffer :=
  match i with
  | .cls => Framebuffer.blank
  | .drwVxVyN x y n => (s.drawn x y n).fb
  | _ => s.fb

/-- SP after an instruction (R30). -/
def spAfter (i : Instr) (s : State) : Nibble :=
  match i with
  | .call _ => s.sp + 1
  | .ret => s.sp - 1
  | _ => s.sp

/-- STACK after an instruction (R29). -/
def stackAfter (i : Instr) (s : State) : Vector Word 16 :=
  match i with
  | .call _ => s.stack.set (s.sp + 1).toNat (s.pc + 2)
  | _ => s.stack

/-- DT after an instruction (R31). -/
def dtAfter (i : Instr) (s : State) : Byte :=
  match i with
  | .ldDtVx x => s.readV x
  | _ => s.dt

/-- ST after an instruction (R32). -/
def stAfter (i : Instr) (s : State) : Byte :=
  match i with
  | .ldStVx x => s.readV x
  | _ => s.st

/-- WAIT after an instruction (R38). -/
def waitAfter (i : Instr) (s : State) : Option Nibble :=
  match i with
  | .ldVxK x => some x
  | _ => s.wait

/-- KEY_EVENT after an instruction (R39). -/
def keyEventAfter (i : Instr) (s : State) : Option Nibble :=
  match i with
  | .ldVxK _ => none
  | _ => s.keyEvent

/-- The model's counter of draws after an instruction (log 1). -/
def drawsAfter (i : Instr) (s : State) : Nat :=
  match i with
  | .rndVxByte _ _ => s.draws + 1
  | _ => s.draws

/-- The whole state after an instruction that does not fault. -/
def Machine.State.after (s : State) (i : Instr) : State where
  v := (writeRegs i s).v
  i := indexAfter i s
  pc := pcAfter i s
  sp := spAfter i s
  stack := stackAfter i s
  dt := dtAfter i s
  st := stAfter i s
  mem := Memory.writeBytes s.mem s.i.toNat (storedBytes i s)
  fb := displayAfter i s
  keys := s.keys
  wait := waitAfter i s
  keyEvent := keyEventAfter i s
  fault := s.fault
  draws := drawsAfter i s

/-! ### What an instruction leaves of each field but the registers -/

section
variable {s : State} {i : Instr}

theorem length_storedBytes (i : Instr) (s : State) : (storedBytes i s).length = storeLen i := by
  cases i with
  | ldBVx x => exact length_bcdDigits (s.readV x)
  | ldMemVx x => exact length_regBlock s x
  | _ => rfl

theorem indexAfter_of_not_writes (h : writesIndex i = false) : indexAfter i s = s.i := by
  cases i with
  | ldIAddr | addIVx | ldFVx => cases h
  | _ => rfl

theorem displayAfter_of_not_writes (h : writesDisplay i = false) : displayAfter i s = s.fb := by
  cases i with
  | cls | drwVxVyN => cases h
  | _ => rfl

theorem stackAfter_of_ne_call (h : ∀ addr, i ≠ .call addr) : stackAfter i s = s.stack := by
  cases i with
  | call addr => exact absurd rfl (h addr)
  | _ => rfl

theorem spAfter_of_ne (hcall : ∀ addr, i ≠ .call addr) (hret : i ≠ .ret) : spAfter i s = s.sp := by
  cases i with
  | call addr => exact absurd rfl (hcall addr)
  | ret => exact absurd rfl hret
  | _ => rfl

theorem dtAfter_of_ne (h : ∀ x, i ≠ .ldDtVx x) : dtAfter i s = s.dt := by
  cases i with
  | ldDtVx x => exact absurd rfl (h x)
  | _ => rfl

theorem stAfter_of_ne (h : ∀ x, i ≠ .ldStVx x) : stAfter i s = s.st := by
  cases i with
  | ldStVx x => exact absurd rfl (h x)
  | _ => rfl

theorem waitAfter_keyEventAfter_of_ne (h : ∀ x, i ≠ .ldVxK x) : waitAfter i s = s.wait ∧ keyEventAfter i s = s.keyEvent := by
  cases i with
  | ldVxK x => exact absurd rfl (h x)
  | _ => exact ⟨rfl, rfl⟩

theorem drawsAfter_of_ne (h : ∀ x b, i ≠ .rndVxByte x b) : drawsAfter i s = s.draws := by
  cases i with
  | rndVxByte x b => exact absurd rfl (h x b)
  | _ => rfl

end

/-! ### Faults: the table of R270 as the range check of the model states it -/

variable {s t : State} {i : Instr} {x y n : Nibble} {addr : Addr} {f : FaultCode}

theorem faultOf_drw_eq_none_iff :
    faultOf (.drwVxVyN x y n) s = none ↔ n.toNat = 0 ∨ s.i.toNat + n.toNat ≤ Config.memSize :=
  ite_eq_right_iff.trans (by simp only [Config.memSize, reduceCtorEq, imp_false]; omega)

theorem faultOf_ldBVx_eq_none_iff : faultOf (.ldBVx x) s = none ↔ s.i.toNat + 3 ≤ Config.memSize :=
  ite_eq_right_iff.trans (by simp only [Config.memSize, reduceCtorEq, imp_false]; omega)

theorem faultOf_ldMemVx_eq_none_iff : faultOf (.ldMemVx x) s = none ↔ s.i.toNat + (x.toNat + 1) ≤ Config.memSize :=
  ite_eq_right_iff.trans (by simp only [Config.memSize, reduceCtorEq, imp_false]; omega)

theorem faultOf_ldVxMem_eq_none_iff : faultOf (.ldVxMem x) s = none ↔ s.i.toNat + (x.toNat + 1) ≤ Config.memSize :=
  faultOf_ldMemVx_eq_none_iff (x := x)

theorem faultOf_call_eq_none_iff : faultOf (.call addr) s = none ↔ s.sp ≠ 15 :=
  ite_eq_right_iff.trans (by simp only [reduceCtorEq, imp_false, ne_eq])

theorem faultOf_ret_eq_none_iff : faultOf .ret s = none ↔ s.sp ≠ 0 :=
  ite_eq_right_iff.trans (by simp only [reduceCtorEq, imp_false, ne_eq])

/-! ### Every instruction by its two cases -/

/-- SKP (R230). -/
theorem exec_skpVx (x : Nibble) (s : State) :
    exec (.skpVx x) s = .next { s with pc := if s.readKey (lowNibble (s.readV x)) = true then s.pc + 4 else s.pc + 2 } :=
  congrArg Host.Outcome.next (skipIf_eq_of_iff Iff.rfl s)

/-- SKNP (R232). -/
theorem exec_sknpVx (x : Nibble) (s : State) :
    exec (.sknpVx x) s = .next { s with pc := if s.readKey (lowNibble (s.readV x)) = false then s.pc + 4 else s.pc + 2 } :=
  congrArg Host.Outcome.next (skipIf_eq_of_iff (Bool.not_eq_true' _).to_iff s)

/-- The whole state after a write of memory that falls through (R26): every field but memory and the pc is kept. -/
theorem advance_setMem (s : State) (m : Memory) : (s.setMem m).advance = { s with mem := m, pc := s.pc + 2 } := rfl

/-- The whole state after a write of the register file that falls through (R26). -/
theorem advance_setV (s : State) (v : Vector Byte 16) : (s.setV v).advance = { s with v := v, pc := s.pc + 2 } := rfl

/-- An instruction outside the conditions of the fault table puts into every field what `State.after` says. -/
theorem exec_of_noFault (h : faultOf i s = none) : exec i s = .next (s.after i) := by
  cases i with
  | ret => exact exec_ret_of_pending (faultOf_ret_eq_none_iff.1 h)
  | call addr => exact exec_call_of_room (faultOf_call_eq_none_iff.1 h)
  | drwVxVyN x y n => exact exec_drw_of_inMemory (faultOf_drw_eq_none_iff.1 h)
  | ldBVx x => exact exec_ldBVx_of_inMemory (faultOf_ldBVx_eq_none_iff.1 h)
  | ldMemVx x => exact exec_ldMemVx_of_inMemory (faultOf_ldMemVx_eq_none_iff.1 h)
  | ldVxMem x =>
    exact (exec_ldVxMem_of_inMemory (faultOf_ldVxMem_eq_none_iff.1 h)).trans (congrArg Host.Outcome.next (advance_setV s _))
  | seVxByte x b => exact exec_seVxByte x b s
  | sneVxByte x b => exact exec_sneVxByte x b s
  | seVxVy x y => exact exec_seVxVy x y s
  | sneVxVy x y => exact exec_sneVxVy x y s
  | skpVx x => exact exec_skpVx x s
  | sknpVx x => exact exec_sknpVx x s
  | _ => rfl

/-- An instruction inside a condition of the fault table changes FAULT only (R272). -/
theorem exec_of_fault (h : faultOf i s = some f) : exec i s = .next (s.setFault f) := by
  cases i with
  | ret =>
    obtain ⟨hsp, ⟨⟩⟩ := Option.ite_none_right_eq_some.1 h
    exact exec_ret_of_empty hsp
  | call addr =>
    obtain ⟨hsp, ⟨⟩⟩ := Option.ite_none_right_eq_some.1 h
    exact exec_call_of_full hsp
  | drwVxVyN x y n =>
    obtain ⟨hr, ⟨⟩⟩ := Option.ite_none_right_eq_some.1 h
    exact exec_drw_of_not_inMemory (by simp only [Config.memSize]; omega)
  | ldBVx x =>
    obtain ⟨hr, ⟨⟩⟩ := Option.ite_none_right_eq_some.1 h
    exact exec_ldBVx_of_not_inMemory (by simp only [Config.memSize]; omega)
  | ldMemVx x =>
    obtain ⟨hr, ⟨⟩⟩ := Option.ite_none_right_eq_some.1 h
    exact exec_ldMemVx_of_not_inMemory (by simp only [Config.memSize]; omega)
  | ldVxMem x =>
    obtain ⟨hr, ⟨⟩⟩ := Option.ite_none_right_eq_some.1 h
    exact exec_ldVxMem_of_not_inMemory (by simp only [Config.memSize]; omega)
  | _ => cases h

/-- Everything an instruction can do. -/
theorem exec_cases (h : exec i s = .next t) :
    (∃ f, faultOf i s = some f ∧ t = s.setFault f) ∨ faultOf i s = none ∧ t = s.after i := by
  rcases Option.eq_none_or_eq_some (faultOf i s) with hn | ⟨f, hf⟩
  · rw [exec_of_noFault hn] at h
    exact .inr ⟨hn, (Host.Outcome.next.inj h).symm⟩
  · rw [exec_of_fault hf] at h
    exact .inl ⟨f, hf, (Host.Outcome.next.inj h).symm⟩

end Sys2Proof
end

section
/-! The invariant (spec/10_state.md R49): O51, O52 and O53. One lemma per clause says that an instruction keeps it; a Step then keeps
all of them by the cases of `step_cases`, a move of the host by those of `applyOp_cases`, and a run by induction on its moves. -/

namespace Sys2Proof

open Machine

variable {s t : State} {i : Instr}

/-! ### What an instruction that does not fault keeps -/

/-- The bytes an instruction stores lie inside memory where it does not fault (R67, R270). -/
theorem storedBytes_inMemory (h : faultOf i s = none) :
    storedBytes i s = [] ∨ s.i.toNat + (storedBytes i s).length ≤ Config.memSize := by
  cases i with
  | ldBVx x => exact .inr (by simpa [storedBytes] using faultOf_ldBVx_eq_none_iff.1 h)
  | ldMemVx x => exact .inr (by simpa [storedBytes] using faultOf_ldMemVx_eq_none_iff.1 h)
  | _ => exact .inl rfl

theorem wf_mem_after (h : faultOf i s = none) (hm : Memory.wf s.mem = true) : Memory.wf (s.after i).mem = true :=
  Memory.wf_writeBytes _ (storedBytes_inMemory h) hm

/-- The computed jump's exact sum: at most 0xFFF + 0xFF (R28, R156). -/
theorem toNat_indexedTarget (s : State) (addr : Addr) :
    (indexedTarget s addr).toNat = addr.toNat + (s.readV 0).toNat := by
  have ha := addr.isLt
  have hv := (s.readV 0).isLt
  simp only [indexedTarget, zextAddr, zextByte, BitVec.toNat_add, BitVec.toNat_setWidth]
  omega

/-- The computed jump's sum does not overflow 16 bits (R156). -/
theorem addr_add_V0_le (addr : Addr) (s : State) : addr.toNat + (s.readV 0).toNat ≤ 0x10FE := by
  have ha := addr.isLt
  have hv := (s.readV 0).isLt
  omega

/-- From a pc that allows a fetch every class of instruction leaves a pc of at most 0x10FE (R26, R28). -/
theorem toNat_pcAfter_le (hpc : s.pc.toNat ≤ 0xFFE) (hslot : ∀ j, (s.readStack j).toNat ≤ 0x1000) :
    (pcAfter i s).toNat ≤ 0x10FE := by
  have hfall : (s.pc + 2).toNat ≤ 0x10FE := by bv_omega
  have hskip (p : Prop) [Decidable p] : (if p then s.pc + 4 else s.pc + 2).toNat ≤ 0x10FE := by split <;> bv_omega
  have hjump (addr : Addr) : (addr.setWidth 16).toNat ≤ 0x10FE := by
    rw [BitVec.toNat_setWidth]; omega
  cases i with
  | seVxByte | sneVxByte | seVxVy | sneVxVy | skpVx | sknpVx => exact hskip _
  | sys addr | jp addr | call addr => exact hjump addr
  | jpV0Addr addr => exact (toNat_indexedTarget s addr).trans_le (addr_add_V0_le addr s)
  | ret => exact (hslot s.sp).trans (by decide)
  | ldVxK x => exact hpc.trans (by decide)
  | _ => exact hfall

/-- A slot is changed by CALL only, which writes the address after itself into the slot above SP (R29, R30). -/
theorem readStack_after (i : Instr) (s : State) (j : Nibble) :
    (s.after i).readStack j = s.readStack j
      ∨ (∃ addr, i = .call addr) ∧ j = s.sp + 1 ∧ (s.after i).readStack j = s.pc + 2 := by
  by_cases hcall : ∃ addr, i = .call addr
  · obtain ⟨addr, rfl⟩ := hcall
    have hw : (s.after (.call addr)).readStack j = if j = s.sp + 1 then s.pc + 2 else s.readStack j :=
      State.readStack_writeStack s (s.sp + 1) j (s.pc + 2)
    by_cases hj : j = s.sp + 1
    · exact .inr ⟨⟨addr, rfl⟩, hj, by rw [hw, if_pos hj]⟩
    · exact .inl (by rw [hw, if_neg hj])
  · have hstack : stackAfter i s = s.stack := stackAfter_of_ne_call fun addr hi => hcall ⟨addr, hi⟩
    exact .inl (congrArg (fun stack : Vector Word 16 => stack[j.toNat]) hstack)

/-- CALL that does not fault writes no slot 0 (R30). -/
theorem readStack_zero_after (h : faultOf i s = none) : (s.after i).readStack 0 = s.readStack 0 := by
  rcases readStack_after i s 0 with hj | ⟨⟨addr, rfl⟩, hsp, -⟩
  · exact hj
  · have hroom := faultOf_call_eq_none_iff.1 h
    bv_omega

theorem toNat_readStack_after_le (hpc : s.pc.toNat ≤ 0xFFE) (hslot : ∀ j, (s.readStack j).toNat ≤ 0x1000) (j : Nibble) :
    ((s.after i).readStack j).toNat ≤ 0x1000 := by
  rcases readStack_after i s j with hj | ⟨-, -, hj⟩ <;> rw [hj]
  · exact hslot j
  · bv_omega

/-- Only LD Vx, K enters a wait; it leaves the pc and the word at it as they are (R236). -/
theorem wait_after_eq_some {x : Nibble} (hw : s.wait = none) (h : (s.after i).wait = some x) :
    i = .ldVxK x ∧ (s.after i).pc = s.pc ∧ (s.after i).fetchWord = s.fetchWord := by
  by_cases hK : ∃ y, i = .ldVxK y
  · obtain ⟨y, rfl⟩ := hK
    obtain rfl : y = x := Option.some.inj h
    exact ⟨rfl, rfl, rfl⟩
  · obtain ⟨hkeep, -⟩ := waitAfter_keyEventAfter_of_ne (s := s) fun y hi => hK ⟨y, hi⟩
    exact nomatch (hkeep.trans hw).symm.trans h

theorem keyEventAfter_eq_none (hk : s.keyEvent = none) : keyEventAfter i s = none := by
  cases i with
  | ldVxK x => rfl
  | _ => exact hk

/-! ### The invariant -/

/-- FAULT is in no clause of the invariant. -/
theorem inv_setFault (f : FaultCode) (h : s.Inv) : (s.setFault f).Inv :=
  ⟨h.memWf, h.pcBound, h.slotZero, h.slotBound, h.latchEmpty, h.waitsAt⟩

/-- The model's counter of draws is in no clause of the invariant. -/
theorem inv_setDraws (n : Nat) (h : s.Inv) : (s.setDraws n).Inv :=
  ⟨h.memWf, h.pcBound, h.slotZero, h.slotBound, h.latchEmpty, h.waitsAt⟩

/-- Executing the fetched word keeps the invariant. -/
theorem inv_exec (h : s.Inv) (hw : s.wait = none) (hpc : s.pc.toNat ≤ 0xFFE) (he : exec (decodeWord s.fetchWord) s = .next t) :
    t.Inv := by
  rcases exec_cases he with ⟨f, -, rfl⟩ | ⟨hf, rfl⟩
  · exact inv_setFault f h
  · refine ⟨wf_mem_after hf h.memWf, toNat_pcAfter_le hpc h.slotBound, (readStack_zero_after hf).trans h.slotZero,
      toNat_readStack_after_le hpc h.slotBound, fun _ => keyEventAfter_eq_none (h.latchEmpty hw), fun x hx => ?_⟩
    obtain ⟨hi, hpc', hword⟩ := wait_after_eq_some hw hx
    rw [hpc', hword]
    exact ⟨hpc, hi⟩

/-- The Step that completes a key wait keeps the invariant. -/
theorem inv_keyWait_completed {x : Nibble} (v : Vector Byte 16) (h : s.Inv) (hx : s.wait = some x) :
    ({ s with v := v, pc := s.pc + 2, wait := none, keyEvent := none } : State).Inv := by
  obtain ⟨hpc, -⟩ := h.waitsAt x hx
  exact ⟨h.memWf, by simp only; bv_omega, h.slotZero, h.slotBound, fun _ => rfl, fun _ hn => nomatch hn⟩

/-- Settles O52, by the cases of a Step. -/
theorem stepKeepsInvariant : Obligations.StepKeepsInvariant := by
  intro s t h hs
  rcases step_cases hs with ⟨-, rfl⟩ | ⟨-, -, -, rfl⟩ | ⟨-, x, k, hx, -, rfl⟩ | ⟨-, -, -, rfl⟩ | ⟨-, hw, hpc, he⟩
  · exact h
  · exact h
  · exact inv_keyWait_completed _ h hx
  · exact inv_setFault _ h
  · exact inv_exec h hw hpc he

/-- Settles O51: memory as Reset fills it is canonical, and the other clauses speak of the reset values. -/
theorem resetMeetsInvariant : Obligations.ResetMeetsInvariant :=
  ⟨Memory.wf_reset, by decide, by decide, by decide, fun _ => rfl, fun _ h => nomatch h⟩

/-! ### The host's moves -/

theorem inv_doReset (s : State) : s.doReset.Inv :=
  inv_setDraws s.draws resetMeetsInvariant

/-- An image that fits keeps the invariant of a core that does not wait (R255). -/
theorem inv_loadImage {img : List Byte} (h : s.Inv) (hw : s.wait = none) (hlen : img.length ≤ Config.maxImage) :
    (s.setMem (Memory.writeBytes s.mem Config.progBase img)).Inv :=
  ⟨Memory.wf_writeBytes img (.inr (Nat.add_le_add_left hlen Config.progBase)) h.memWf, h.pcBound, h.slotZero, h.slotBound, h.latchEmpty,
    fun _ hx => nomatch hw.symm.trans hx⟩

/-- Tick writes the timers, which are in no clause of the invariant. -/
theorem inv_tick (h : s.Inv) : s.tick.Inv :=
  ⟨h.memWf, h.pcBound, h.slotZero, h.slotBound, h.latchEmpty, h.waitsAt⟩

/-- The whole state after SetKey: the key, and the latch where a wait gets its first press (R253). -/
theorem setKey_eq (s : State) (k : Nibble) (b : Bool) : s.setKey k b = { s with
    keys := s.keys.set k.toNat b
    keyEvent := if b = true ∧ s.readKey k = false ∧ s.wait ≠ none ∧ s.keyEvent = none then some k else s.keyEvent } := by
  have hc : (b && !s.readKey k && s.wait.isSome && s.keyEvent.isNone) = true
      ↔ b = true ∧ s.readKey k = false ∧ s.wait ≠ none ∧ s.keyEvent = none := by
    simp [Option.isSome_iff_ne_none, and_assoc]
  unfold State.setKey
  simp only [hc]
  split <;> rfl

@[simp] theorem setKey_wait (s : State) (k : Nibble) (b : Bool) : (s.setKey k b).wait = s.wait := by rw [setKey_eq]

/-- SetKey latches only during a wait, so an empty latch outside one stays empty. -/
theorem inv_setKey (k : Nibble) (b : Bool) (h : s.Inv) : (s.setKey k b).Inv := by
  rw [setKey_eq]
  refine ⟨h.memWf, h.pcBound, h.slotZero, h.slotBound, fun hw => ?_, h.waitsAt⟩
  have hw' : s.wait = none := hw
  simp [hw', h.latchEmpty hw']

/-- One move of the host or one Step keeps the session invariant (R258). -/
theorem inv_applyOp {op : Op} {z z' : Session} (h : z.Inv) (ho : applyOp op z = .next z') : z'.Inv := by
  rcases applyOp_cases ho with ⟨-, rfl⟩ | ⟨img, -, hp, hlen, rfl⟩ | ⟨-, hp, hp', hs⟩ | ⟨-, hp, rfl⟩ | ⟨k, b, -, hp, rfl⟩
  · exact fun _ => ⟨inv_doReset z.core, fun _ => rfl⟩
  · obtain ⟨hc, hw⟩ := h (by simp [hp])
    have hw' := hw (by simp [hp])
    exact fun _ => ⟨inv_loadImage hc hw' hlen, fun _ => hw'⟩
  · exact fun _ => ⟨stepKeepsInvariant z.core z'.core (h hp).1 hs, fun hne => absurd hp' hne⟩
  · exact fun _ => ⟨inv_tick (h hp).1, (h hp).2⟩
  · exact fun _ => ⟨inv_setKey k b (h hp).1, fun hne => (setKey_wait _ k b).trans ((h hp).2 hne)⟩

/-- A run of one move and more is the move and the rest of the run. -/
theorem runOps_cons_eq_next {op : Op} {ops : List Op} {z z' : Session} (h : runOps (op :: ops) z = .next z') :
    ∃ y, applyOp op z = .next y ∧ runOps ops y = .next z' := by
  rw [runOps] at h
  split at h
  · exact ⟨_, by assumption, h⟩
  · cases h
  · cases h

/-- A property of sessions that every move of a list keeps is kept by the run. -/
theorem runOps_induction {P : Session → Prop} {ops : List Op}
    (hstep : ∀ op ∈ ops, ∀ y y', P y → applyOp op y = .next y' → P y') {z z' : Session} (h : P z) (hr : runOps ops z = .next z') :
    P z' := by
  induction ops generalizing z with
  | nil =>
    cases hr
    exact h
  | cons op ops ih =>
    obtain ⟨y, hy, hr'⟩ := runOps_cons_eq_next hr
    exact ih (fun op' hop' => hstep op' (List.mem_cons_of_mem op hop')) (hstep op List.mem_cons_self z y h hy) hr'

/-- Settles O53, by induction on the moves; before the first Reset the invariant says nothing. -/
theorem everyRunKeepsInvariant : Obligations.EveryRunKeepsInvariant :=
  ⟨fun _ h => absurd rfl h, fun _ _ _ h hr => runOps_induction (P := Session.Inv) (fun _ _ _ _ => inv_applyOp) h hr⟩

end Sys2Proof
end

section
/-! Statements over all instructions: O10, O29, O30, O41 to O44 and O46. An instruction either changes FAULT only or leaves `State.after`, so
each statement is about one field of that; only the register file needs an argument by instructions. -/

namespace Sys2Proof

open Machine

variable {s t : State} {i : Instr} {k j : Nibble} {b : Byte}

/-! ### Faults -/

theorem exec_eq_next (i : Instr) (s : State) : ∃ t, exec i s = .next t := by
  rcases Option.eq_none_or_eq_some (faultOf i s) with hn | ⟨f, hf⟩
  · exact ⟨_, exec_of_noFault hn⟩
  · exact ⟨_, exec_of_fault hf⟩

theorem waitingStep_eq_next (x : Nibble) (s : State) : ∃ t, waitingStep x s = .next t := by
  unfold waitingStep
  split <;> exact ⟨_, rfl⟩

theorem step_eq_next (s : State) : ∃ t, step s = .next t := by
  rw [step]
  cases stepKind s with
  | halted => exact ⟨s, rfl⟩
  | waiting x => exact waitingStep_eq_next x s
  | fetchFault => exact ⟨_, raise_eq .memRange s⟩
  | execute op => exact exec_eq_next (decodeWord op) s

/-- Settles O10: an instruction by its two cases, a Step by its four. -/
theorem everyStepAnswersNext : Obligations.EveryStepAnswersNext :=
  ⟨exec_eq_next, step_eq_next⟩

/-- Settles O29: `exec_cases` with FAULT's own field of `State.after`. -/
theorem faultsExactlyAndPrecisely : Obligations.FaultsExactlyAndPrecisely := by
  intro i s t h
  rcases exec_cases h with ⟨f, hf, rfl⟩ | ⟨hn, rfl⟩
  · rw [hf]; rfl
  · rw [hn]; rfl

/-- An instruction that changes FAULT changes nothing else. -/
theorem eq_setFault_of_exec (h : exec i s = .next t) (hne : t.fault ≠ s.fault) : t = s.setFault t.fault := by
  rcases exec_cases h with ⟨f, -, rfl⟩ | ⟨-, rfl⟩
  · rfl
  · exact absurd rfl hne

/-- Settles O30, by the cases of a Step: only a bad fetch and an instruction can change FAULT. -/
theorem faultingStepIsPrecise : Obligations.FaultingStepIsPrecise := by
  intro s t hs hne
  rcases step_cases hs with ⟨-, rfl⟩ | ⟨-, -, -, rfl⟩ | ⟨-, x, k, -, -, rfl⟩ | ⟨hf, -, -, rfl⟩ | ⟨hf, -, -, he⟩
  · exact absurd rfl hne
  · exact absurd rfl hne
  · exact absurd rfl hne
  · exact ⟨hf, rfl⟩
  · exact ⟨hf, eq_setFault_of_exec he hne⟩

/-! ### The fields but the registers -/

/-- Settles O42: what is stored are `storeLen` bytes from I on. -/
theorem memoryFrame : Obligations.MemoryFrame := by
  intro i s t a h ha
  rcases exec_cases h with ⟨f, -, rfl⟩ | ⟨-, rfl⟩
  · rfl
  · exact (Memory.read_writeBytes s.mem s.i.toNat a (storedBytes i s)).trans
      (if_neg (by rwa [length_storedBytes]))

/-- Settles O43, field by field. -/
theorem otherStateFrame : Obligations.OtherStateFrame := by
  intro i s t h
  rcases exec_cases h with ⟨f, -, rfl⟩ | ⟨-, rfl⟩
  · simp
  · exact ⟨rfl, indexAfter_of_not_writes, displayAfter_of_not_writes, stackAfter_of_ne_call, spAfter_of_ne, dtAfter_of_ne,
      stAfter_of_ne, waitAfter_keyEventAfter_of_ne, drawsAfter_of_ne⟩

/-- Settles O44: the classes of R26 are the pc's field of `State.after`. -/
theorem pcSequencing : Obligations.PcSequencing := by
  intro i s t h
  rcases exec_cases h with ⟨f, hf, rfl⟩ | ⟨hn, rfl⟩
  · rw [if_neg (by simp [hf])]; rfl
  · rw [if_pos hn]; rfl

/-- An instruction that changes DT is LD DT, Vx. -/
theorem eq_ldDtVx_of_exec (h : exec i s = .next t) (hne : t.dt ≠ s.dt) : ∃ x, i = .ldDtVx x ∧ t.dt = s.readV x := by
  rcases exec_cases h with ⟨f, -, rfl⟩ | ⟨-, rfl⟩
  · exact absurd rfl hne
  · by_contra hno
    exact hne (dtAfter_of_ne fun x hx => hno ⟨x, hx, by subst hx; rfl⟩)

/-- An instruction that changes ST is LD ST, Vx. -/
theorem eq_ldStVx_of_exec (h : exec i s = .next t) (hne : t.st ≠ s.st) : ∃ x, i = .ldStVx x ∧ t.st = s.readV x := by
  rcases exec_cases h with ⟨f, -, rfl⟩ | ⟨-, rfl⟩
  · exact absurd rfl hne
  · by_contra hno
    exact hne (stAfter_of_ne fun x hx => hno ⟨x, hx, by subst hx; rfl⟩)

/-- Settles O46, by the cases of a Step: only an instruction can change a timer. -/
theorem stepLeavesKeysAndTimers : Obligations.StepLeavesKeysAndTimers := by
  intro s t hs
  rcases step_cases hs with ⟨-, rfl⟩ | ⟨-, -, -, rfl⟩ | ⟨-, x, k, -, -, rfl⟩ | ⟨-, -, -, rfl⟩ | ⟨-, -, -, he⟩
  · simp
  · simp
  · simp
  · simp
  · obtain ⟨hkeys, -⟩ := otherStateFrame _ s t he
    exact ⟨hkeys, eq_ldDtVx_of_exec he, eq_ldStVx_of_exec he⟩

/-! ### The registers -/

theorem readV_writeV_of_ne {x : Nibble} (h : j ≠ x) : (s.writeV x b).readV j = s.readV j := by
  rw [State.readV_writeV, if_neg h]

/-- A block load gives the bytes to the registers up to `x` (R200). -/
theorem readV_setV_loadBlock (s u : State) (x j : Nibble) (bs : List Byte) :
    (s.setV (loadBlock u x bs)).readV j = if j.toNat ≤ x.toNat then bs.getD j.toNat 0 else u.readV j :=
  getElem_loadBlock u x j bs

/-- A register that the table of R23 does not say is written keeps its value. -/
theorem readV_writeRegs_of_not_writes (h : writesReg i j = false) : (writeRegs i s).readV j = s.readV j := by
  cases i with
  | ldVxByte | addVxByte | ldVxVy | orVxVy | andVxVy | xorVxVy | rndVxByte | ldVxDt | drwVxVyN =>
    exact readV_writeV_of_ne (by simpa [writesReg] using h)
  | addVxVy | subVxVy | subnVxVy | shrVx | shlVx =>
    obtain ⟨hx, hF⟩ : j ≠ _ ∧ j ≠ 15 := by simpa [writesReg] using h
    exact (State.writeResultFlag_readV ..).trans ((if_neg hF).trans (if_neg hx))
  | ldVxMem x => exact (readV_setV_loadBlock ..).trans (if_neg (by simpa [writesReg] using h))
  | _ => rfl

/-- Settles O41. -/
theorem registerFrame : Obligations.RegisterFrame := by
  intro i s t k h hk
  rcases exec_cases h with ⟨f, -, rfl⟩ | ⟨-, rfl⟩
  · rfl
  · exact readV_writeRegs_of_not_writes hk

end Sys2Proof
end

section
/-! What an instruction reads (the middle column of R23): O45. Changing a register that is not read changes no field but the register
file, and there only the register itself, and that only where the instruction does not write it. -/

namespace Sys2Proof

open Machine

variable {s : State} {i : Instr} {k j x y : Nibble} {b : Byte}

/-- A register block does not hold the registers above it. -/
theorem regBlock_writeV (h : x.toNat < k.toNat) : regBlock (s.writeV k b) x = regBlock s x := by
  simp only [regBlock, State.writeV_v, Vector.toList_set]
  exact List.take_set_of_le h

/-- A write to another register leaves an operand. -/
theorem readV_writeV_other (h : k ≠ x) : (s.writeV k b).readV x = s.readV x :=
  readV_writeV_of_ne h.symm

theorem drawn_writeV (n : Nibble) (hx : k ≠ x) (hy : k ≠ y) : (s.writeV k b).drawn x y n = s.drawn x y n := by
  simp only [State.drawn, readV_writeV_other hx, readV_writeV_other hy, State.writeV_fb, State.writeV_mem, State.writeV_i]

theorem faultOf_writeV (i : Instr) (s : State) (k : Nibble) (b : Byte) : faultOf i (s.writeV k b) = faultOf i s := by
  cases i <;> rfl

theorem indexAfter_writeV (h : readsReg i k = false) : indexAfter i (s.writeV k b) = indexAfter i s := by
  cases i with
  | addIVx x | ldFVx x =>
    have hx : k ≠ x := by simpa [readsReg] using h
    simp only [indexAfter, readV_writeV_other hx, State.writeV_i]
  | _ => rfl

theorem storedBytes_writeV (h : readsReg i k = false) : storedBytes i (s.writeV k b) = storedBytes i s := by
  cases i with
  | ldBVx x =>
    have hx : k ≠ x := by simpa [readsReg] using h
    simp only [storedBytes, readV_writeV_other hx]
  | ldMemVx x => exact regBlock_writeV (by simpa [readsReg] using h)
  | _ => rfl

theorem displayAfter_writeV (h : readsReg i k = false) : displayAfter i (s.writeV k b) = displayAfter i s := by
  cases i with
  | drwVxVyN x y n =>
    obtain ⟨hx, hy⟩ : k ≠ x ∧ k ≠ y := by simpa [readsReg] using h
    exact congrArg Canvas.fb (drawn_writeV n hx hy)
  | _ => rfl

theorem dtAfter_writeV (h : readsReg i k = false) : dtAfter i (s.writeV k b) = dtAfter i s := by
  cases i with
  | ldDtVx x => exact readV_writeV_other (by simpa [readsReg] using h)
  | _ => rfl

theorem stAfter_writeV (h : readsReg i k = false) : stAfter i (s.writeV k b) = stAfter i s := by
  cases i with
  | ldStVx x => exact readV_writeV_other (by simpa [readsReg] using h)
  | _ => rfl

theorem pcAfter_writeV (h : readsReg i k = false) : pcAfter i (s.writeV k b) = pcAfter i s := by
  cases i with
  | seVxByte x | sneVxByte x | skpVx x | sknpVx x =>
    have hx : k ≠ x := by simpa [readsReg] using h
    unfold pcAfter
    simp only [readV_writeV_other hx]; rfl
  | seVxVy x y | sneVxVy x y =>
    obtain ⟨hx, hy⟩ : k ≠ x ∧ k ≠ y := by simpa [readsReg] using h
    unfold pcAfter
    simp only [readV_writeV_other hx, readV_writeV_other hy]; rfl
  | jpV0Addr addr =>
    have hx : k ≠ 0 := by simpa [readsReg] using h
    unfold pcAfter
    simp only [readV_writeV_other hx]
  | _ => rfl

/-- A written register's new value depends on the registers read only; `LD Vx, K` writes its own at its completion. -/
theorem readV_writeRegs_of_writes (hr : readsReg i k = false) (hw : writesReg i j = true) (hK : ∀ x, i ≠ .ldVxK x) :
    (writeRegs i (s.writeV k b)).readV j = (writeRegs i s).readV j := by
  cases i with
  | ldVxK x => exact absurd rfl (hK x)
  | ldVxByte x c | rndVxByte x c | ldVxDt x =>
    obtain rfl : j = x := by simpa [writesReg] using hw
    simp [writeRegs]
  | addVxByte x c =>
    obtain rfl : j = x := by simpa [writesReg] using hw
    have hx : k ≠ j := by simpa [readsReg] using hr
    simp [writeRegs, readV_writeV_other hx]
  | ldVxVy x y =>
    obtain rfl : j = x := by simpa [writesReg] using hw
    have hy : k ≠ y := by simpa [readsReg] using hr
    simp [writeRegs, readV_writeV_other hy]
  | orVxVy x y | andVxVy x y | xorVxVy x y =>
    obtain rfl : j = x := by simpa [writesReg] using hw
    obtain ⟨hx, hy⟩ : k ≠ j ∧ k ≠ y := by simpa [readsReg] using hr
    simp [writeRegs, readV_writeV_other hx, readV_writeV_other hy]
  | drwVxVyN x y n =>
    obtain rfl : j = 15 := by simpa [writesReg] using hw
    obtain ⟨hx, hy⟩ : k ≠ x ∧ k ≠ y := by simpa [readsReg] using hr
    simp [writeRegs, drawn_writeV n hx hy]
  | addVxVy x y | subVxVy x y | subnVxVy x y =>
    obtain ⟨hx, hy⟩ : k ≠ x ∧ k ≠ y := by simpa [readsReg] using hr
    have hj : j = x ∨ j = 15 := by simpa [writesReg] using hw
    simp only [writeRegs, State.writeResultFlag_readV, readV_writeV_other hx, readV_writeV_other hy]
    rcases hj with rfl | rfl <;> simp
  | shrVx x | shlVx x =>
    have hx : k ≠ x := by simpa [readsReg] using hr
    have hj : j = x ∨ j = 15 := by simpa [writesReg] using hw
    simp only [writeRegs, State.writeResultFlag_readV, readV_writeV_other hx]
    rcases hj with rfl | rfl <;> simp
  | ldVxMem x =>
    have hj : j.toNat ≤ x.toNat := by simpa [writesReg] using hw
    simp only [writeRegs, readV_setV_loadBlock, if_pos hj, State.writeV_mem, State.writeV_i]
  | _ => cases hw

/-- A changed register that is not read but written: the register file after the instruction is the same. -/
theorem writeRegs_v_of_writes (hr : readsReg i k = false) (hw : writesReg i k = true) (hK : ∀ x, i ≠ .ldVxK x) :
    (writeRegs i (s.writeV k b)).v = (writeRegs i s).v := by
  refine State.v_ext fun j => ?_
  by_cases hj : writesReg i j = true
  · exact readV_writeRegs_of_writes hr hj hK
  · have hjk : j ≠ k := by rintro rfl; exact hj hw
    rw [Bool.not_eq_true] at hj
    rw [readV_writeRegs_of_not_writes hj, readV_writeRegs_of_not_writes hj, readV_writeV_of_ne hjk]

/-- A changed register that is neither read nor written: the register file after the instruction differs there only. -/
theorem writeRegs_v_of_not_writes (hr : readsReg i k = false) (hw : writesReg i k = false) (hK : ∀ x, i ≠ .ldVxK x) :
    (writeRegs i (s.writeV k b)).v = ((writeRegs i s).writeV k b).v := by
  refine State.v_ext fun j => ?_
  by_cases hj : writesReg i j = true
  · have hjk : j ≠ k := by rintro rfl; simp [hw] at hj
    rw [readV_writeRegs_of_writes hr hj hK, readV_writeV_of_ne hjk]
  · rw [Bool.not_eq_true] at hj
    rw [readV_writeRegs_of_not_writes hj, State.readV_writeV, State.readV_writeV, readV_writeRegs_of_not_writes hj]

/-- Changing a register that is not read changes no field but the register file. -/
theorem after_writeV (h : readsReg i k = false) :
    (s.writeV k b).after i = (s.after i).setV (writeRegs i (s.writeV k b)).v := by
  have hrest : stackAfter i (s.writeV k b) = stackAfter i s ∧ spAfter i (s.writeV k b) = spAfter i s
      ∧ waitAfter i (s.writeV k b) = waitAfter i s ∧ keyEventAfter i (s.writeV k b) = keyEventAfter i s
      ∧ drawsAfter i (s.writeV k b) = drawsAfter i s := by
    cases i <;> exact ⟨rfl, rfl, rfl, rfl, rfl⟩
  obtain ⟨hstack, hsp, hwait, hkey, hdraws⟩ := hrest
  simp only [State.after, State.setV, indexAfter_writeV h, storedBytes_writeV h, displayAfter_writeV h, dtAfter_writeV h,
    stAfter_writeV h, pcAfter_writeV h, hstack, hsp, hwait, hkey, hdraws, State.writeV_mem, State.writeV_i, State.writeV_keys,
    State.writeV_fault]

/-- Settles O45: a fault and a wait keep the changed register; otherwise it is kept exactly where it is not written. -/
theorem readsOnlyItsRegisters : Obligations.ReadsOnlyItsRegisters := by
  intro i k b s t hr h
  change exec i (s.writeV k b) = .next t ∨ exec i (s.writeV k b) = .next (t.writeV k b) ∧ _
  rcases exec_cases h with ⟨f, hf, rfl⟩ | ⟨hn, rfl⟩
  · exact .inr ⟨exec_of_fault ((faultOf_writeV i s k b).trans hf), .inr (.inl (by simp [hf]))⟩
  · rw [exec_of_noFault ((faultOf_writeV i s k b).trans hn), after_writeV hr]
    by_cases hK : ∃ x, i = .ldVxK x
    · obtain ⟨x, rfl⟩ := hK
      exact .inr ⟨rfl, .inr (.inr ⟨x, rfl⟩)⟩
    · have hK' : ∀ x, i ≠ .ldVxK x := fun x hx => hK ⟨x, hx⟩
      cases hw : writesReg i k with
      | true =>
        rw [writeRegs_v_of_writes hr hw hK']
        exact .inl rfl
      | false =>
        rw [writeRegs_v_of_not_writes hr hw hK']
        exact .inr ⟨rfl, .inl rfl⟩

end Sys2Proof
end

section
/-! The decoder's statements (spec/30_encoding.md sections 2, 3, 7): O2, O3, O4, O5, O11 and O13. `isUnknownWord` is R100's list; a word
decodes to the unknown sentinel exactly when it is on it, and the list by nibbles is the list in unbounded integers. -/

namespace Sys2Proof

open Machine

variable {op : Word}

/-! ### Unknown words -/

/-- The unknown sentinel carries the word whole. -/
theorem eq_of_decodeWord_unknown {w : Word} (h : decodeWord op = .unknown w) : w = op := by
  rcases decodeWith_cases opcodeMap op with ⟨r, hr, -, hb⟩ | ⟨-, hb⟩
  · exact absurd (hb.symm.trans h) (opcodeMap_build_ne_unknown op w r hr)
  · exact (Instr.unknown.inj (hb.symm.trans h)).symm

theorem decodeWord_unknown_iff : decodeWord op = .unknown op ↔ isUnknownWord op = true :=
  ⟨isUnknownWord_of_decodeWord, decodeWord_unknown⟩

/-- R100's list in unbounded integers. -/
theorem isUnknownWord_iff : isUnknownWord op = true ↔
    (op.toNat / 4096 = 8 ∧ op.toNat % 16 ∈ [8, 9, 10, 11, 12, 13, 15])
    ∨ (op.toNat / 4096 = 14 ∧ op.toNat % 16 ≠ 1 ∧ op.toNat % 16 ≠ 14)
    ∨ (op.toNat / 4096 = 15 ∧ op.toNat % 256 ∉ [0x07, 0x0A, 0x15, 0x18, 0x1E, 0x29, 0x33, 0x55, 0x65]) := by
  have htop : op.toNat >>> 12 % 16 = op.toNat / 4096 := by
    have := op.isLt
    rw [Nat.shiftRight_eq_div_pow]
    omega
  simp [isUnknownWord, ← BitVec.toNat_inj, htop, or_assoc, and_assoc]

/-- Settles O3: the sentinel is R100's list, and it carries its word. -/
theorem unknownWordsExactly : Obligations.UnknownWordsExactly :=
  fun _ => ⟨decodeWord_unknown_iff.trans isUnknownWord_iff, fun _ => eq_of_decodeWord_unknown⟩

/-- Settles O4. -/
theorem decodedIsWellFormed : Obligations.DecodedIsWellFormed := decodeWord_wellFormed

/-! ### The rows of the opcode map -/

/-- Two rows that match one word agree on the bits that both fix. -/
theorem OpRow.agree_of_matches {r q : OpRow} (hr : op &&& r.mask = r.pattern) (hq : op &&& q.mask = q.pattern) :
    r.pattern &&& q.mask = q.pattern &&& r.mask := by
  rw [← hr, ← hq, BitVec.and_assoc, BitVec.and_assoc, BitVec.and_comm r.mask]

/-- Of two rows that agree on the bits that both fix, the later is row 3 of R96. -/
theorem opcodeMap_agree : ∀ k j : Fin 35, j < k →
    opcodeMap[j].pattern &&& opcodeMap[k].mask = opcodeMap[k].pattern &&& opcodeMap[j].mask → k.val = 2 := by
  decide

/-- Settles O5: rows that match one word agree, and agreement is checked row against row. -/
theorem opcodeMapRowsDisjoint : Obligations.OpcodeMapRowsDisjoint := by
  refine ⟨rfl, fun op j k r q hj hk hjk hr hq => ?_⟩
  obtain ⟨hj', rfl⟩ := List.getElem?_eq_some_iff.1 hj
  obtain ⟨hk', rfl⟩ := List.getElem?_eq_some_iff.1 hk
  exact opcodeMap_agree ⟨k, hk'⟩ ⟨j, hj'⟩ hjk (OpRow.agree_of_matches hr hq)

/-- Settles O2: closed facts about the decoder, evaluated. -/
theorem specWordsDecode : Obligations.SpecWordsDecode := by
  unfold Obligations.SpecWordsDecode
  decide

/-! ### Jumps and their words -/

/-- SYS (R142). -/
theorem exec_sys (addr : Addr) (s : State) : exec (.sys addr) s = .next { s with pc := BitVec.ofNat 16 addr.toNat } := by
  rw [← zextAddr_eq_ofNat]; rfl

/-- JP (R144). -/
theorem exec_jp (addr : Addr) (s : State) : exec (.jp addr) s = .next { s with pc := BitVec.ofNat 16 addr.toNat } := by
  rw [← zextAddr_eq_ofNat]; rfl

/-- Settles O11: the words by their rows of the opcode map. -/
theorem sysAndJumpSetPc : Obligations.SysAndJumpSetPc :=
  ⟨fun _ => decodeWord_sys, fun _ => decodeWord_jp, fun addr s => ⟨exec_sys addr s, exec_jp addr s⟩⟩

/-- JP V0, addr (R156). -/
theorem exec_jpV0Addr (addr : Addr) (s : State) :
    exec (.jpV0Addr addr) s = .next { s with pc := BitVec.ofNat 16 (addr.toNat + (s.readV 0).toNat) } := by
  have hsum : indexedTarget s addr = BitVec.ofNat 16 (addr.toNat + (s.readV 0).toNat) := by
    rw [← toNat_indexedTarget, BitVec.ofNat_toNat, BitVec.setWidth_eq]
  rw [← hsum]; rfl

/-- Settles O13: the words by their row of the opcode map, the pc by the exact sum. -/
theorem indexedJump : Obligations.IndexedJump :=
  ⟨fun _ => decodeWord_jpV0Addr, fun addr s => ⟨addr_add_V0_le addr s, exec_jpV0Addr addr s⟩⟩

end Sys2Proof
end

section
/-! The Step (spec/40_step_and_decode.md sections 1 to 3) and the key wait (spec/45_keypad_timers.md section 3): O7, O8, O9, O38, O39,
O40, O49 and O57. A halted core, an idle wait and a jump to itself are states that a Step leaves as they are, and so do any number. -/

namespace Sys2Proof

open Machine

variable {s : State} {x k : Nibble}

/-- A state that one Step leaves as it is, any number of Steps leaves as it is. -/
theorem run_of_step_eq_self {M : Host.Core} {u : M.State} (h : M.step u = .next u) (n : Nat) : M.run n u = .next u := by
  induction n with
  | zero => rfl
  | succ n ih => rw [Host.Core.run, h]; exact ih

/-! ### Halted and bad-fetch Steps -/

/-- Settles O7: a halted core is left as it is by one Step (R121). -/
theorem haltedStepChangesNothing : Obligations.HaltedStepChangesNothing :=
  fun _ n hf => run_of_step_eq_self (M := core) (step_of_halted hf) n

/-- Settles O9: the Step raises MemRange (R123), which changes FAULT only. -/
theorem fetchOutsideMemoryFaults : Obligations.FetchOutsideMemoryFaults :=
  fun s hf hw hp => (step_of_badFetch hf hw hp).trans (raise_eq .memRange s)

/-! ### A jump to itself -/

/-- The word `JP pc` decodes as a jump to its own address. -/
theorem decodeWord_jp_pc (hp : s.pc.toNat ≤ 0xFFE) : decodeWord (0x1000#16 ||| s.pc) = .jp (opAddr s.pc) := by
  have hpc : placeAddr (opAddr s.pc) = s.pc := by
    refine BitVec.eq_of_toNat_eq ?_
    simp only [placeAddr, opAddr, BitVec.toNat_setWidth, BitVec.extractLsb'_toNat, Nat.shiftRight_zero]
    omega
  rw [← hpc, decode_encoded_addr decodeWord_jp rfl, hpc]

/-- A jump to the address it stands at changes nothing. -/
theorem exec_jp_pc (hp : s.pc.toNat ≤ 0xFFE) : exec (.jp (opAddr s.pc)) s = .next s := by
  have hpc : BitVec.ofNat 16 (opAddr s.pc).toNat = s.pc := by
    refine BitVec.eq_of_toNat_eq ?_
    simp only [opAddr, BitVec.toNat_ofNat, BitVec.extractLsb'_toNat, Nat.shiftRight_zero]
    omega
  rw [exec_jp, hpc]

/-- Settles O57: one Step runs the jump to the pc, which changes nothing. -/
theorem selfJumpIdles : Obligations.SelfJumpIdles := by
  intro s n hf hw hp hword
  have hstep : step s = .next s := by
    rw [step_of_ready hf hw hp, hword, decodeWord_jp_pc hp, exec_jp_pc hp]
  exact run_of_step_eq_self (M := core) hstep n

/-! ### The key wait -/

/-- A waiting Step without a latched press changes nothing (R237). -/
theorem step_of_idle_wait (hf : s.fault = .none) (hw : s.wait = some x) (hk : s.keyEvent = none) : step s = .next s := by
  rw [step_of_waiting hf hw, waitingStep, hk]

/-- A waiting Step with a latched press completes the wait (R237). -/
theorem step_of_latched_wait (hf : s.fault = .none) (hw : s.wait = some x) (hk : s.keyEvent = some k) :
    step s = .next { s with v := s.v.set x.toNat (k.setWidth 8), pc := s.pc + 2, wait := none, keyEvent := none } := by
  rw [step_of_waiting hf hw, waitingStep, hk]; rfl

/-- Settles O8. -/
theorem waitingStep : Obligations.WaitingStep :=
  fun _ _ hf hw => ⟨step_of_idle_wait hf hw, fun _ => step_of_latched_wait hf hw⟩

/-- Settles O38: the entry is two writes. -/
theorem keyWaitEntry : Obligations.KeyWaitEntry := fun _ _ => rfl

/-- Settles O49. -/
theorem setKeyLatchesFirstPress : Obligations.SetKeyLatchesFirstPress := setKey_eq

/-- The first press of a key that is up, during a wait, is latched (R253). -/
theorem setKey_of_firstPress (hw : s.wait ≠ none) (hk : s.keyEvent = none) (hup : s.readKey k = false) :
    s.setKey k true = (s.writeKey k true).setKeyEvent (some k) := by
  rw [setKey_eq, if_pos ⟨rfl, hup, hw, hk⟩]; rfl

/-- A latched press is kept (R253). -/
theorem setKey_of_latched (b : Bool) (hk : s.keyEvent ≠ none) : s.setKey k b = s.writeKey k b := by
  rw [setKey_eq, if_neg fun h => hk h.2.2.2]; rfl

/-- Settles O39: the wait idles, the first press is latched and kept, and the next Step completes the wait with it. -/
theorem keyWaitProtocol : Obligations.KeyWaitProtocol := by
  intro x k j s w n hf he hup _
  obtain ⟨hwf, hww, hwk, hwup⟩ : w.fault = .none ∧ w.wait = some x ∧ w.keyEvent = none ∧ w.readKey k = false := by
    cases he
    exact ⟨hf, rfl, rfl, hup⟩
  constructor
  · exact run_of_step_eq_self (M := core) (step_of_idle_wait hwf hww hwk) n
  · rw [setKey_of_firstPress (by simp [hww]) hwk hwup, setKey_of_latched true (by simp), BitVec.ofNat_toNat]
    refine (step_of_latched_wait (x := x) (k := k) ?_ ?_ ?_).trans ?_
    · exact hwf
    · exact hww
    · rfl
    · cases he
      simp

/-! ### The unknown opcode -/

/-- A Step emits the diagnostic event exactly when it executes a word that decodes to the unknown sentinel (R276). -/
theorem stepDiag_eq_some_iff {d : Diagnostic} :
    stepDiag s = some d ↔ ∃ op w, stepKind s = .execute op ∧ decodeWord op = .unknown w ∧ d = ⟨w, s.pc⟩ := by
  unfold stepDiag
  split
  · rename_i op hk
    split
    · rename_i w hw
      simp [hk, hw, eq_comm]
    · rename_i hw
      simpa [hk] using fun w h => absurd h (hw w)
  · rename_i hk
    simpa using fun op h => absurd h (hk op)

/-- Settles O40: the executed word is the fetched one (R120), and the unknown sentinel carries it. -/
theorem unknownSkipsWithDiagnostic : Obligations.UnknownSkipsWithDiagnostic := by
  refine ⟨fun _ _ => rfl, fun s d => ?_⟩
  rw [stepDiag_eq_some_iff]
  constructor
  · rintro ⟨op, w, hk, hw, rfl⟩
    obtain ⟨hf, hwait, hp, rfl⟩ := (stepKind_execute_iff s op).1 hk
    obtain rfl := eq_of_decodeWord_unknown hw
    exact ⟨hf, hwait, hp, hw, rfl, rfl⟩
  · rintro ⟨hf, hwait, hp, hw, hop, haddr⟩
    exact ⟨s.fetchWord, s.fetchWord, (stepKind_execute_iff s _).2 ⟨hf, hwait, hp, rfl⟩, hw, by cases d; simp_all⟩

end Sys2Proof
end

section
/-! Memory and the index register (spec/43_index_memory.md, spec/20_memory.md): O24 to O28, O31, O32, O50. A store is one run of bytes
and a load one run read, so what a run of bytes leaves and what it gives is said first; then each instruction names its run. -/

namespace Sys2Proof

open Machine

variable {s : State} {x j : Nibble}

/-! ### Runs of bytes -/

/-- A byte of a stored run. -/
theorem read_writeBytes_inside (m : Memory) (a : Nat) {bs : List Byte} {n : Nat} (h : n < bs.length) :
    Memory.read (Memory.writeBytes m a bs) (a + n) = bs.getD n 0 := by
  rw [Memory.read_writeBytes, if_pos (by omega), Nat.add_sub_cancel_left]

/-- A byte outside a stored run. -/
theorem read_writeBytes_outside (m : Memory) {a k : Nat} {bs : List Byte} (h : k < a ∨ a + bs.length ≤ k) :
    Memory.read (Memory.writeBytes m a bs) k = Memory.read m k := by
  rw [Memory.read_writeBytes, if_neg (by omega)]

/-- Byte `j` of a stored register block is `V[j]` (R198). -/
theorem read_stored_regBlock (s : State) (m : Memory) (a : Nat) (h : j.toNat ≤ x.toNat) :
    Memory.read (Memory.writeBytes m a (regBlock s x)) (a + j.toNat) = s.readV j := by
  rw [read_writeBytes_inside m a (by rw [length_regBlock]; omega), getD_regBlock s x j h]

/-! ### The index register -/

/-- Settles O24: the whole next states by `advance_setI`, the words as numbers. -/
theorem addIndexAndGlyphAddress : Obligations.AddIndexAndGlyphAddress := by
  intro x s
  have hadd : s.i + zextByte (s.readV x) = BitVec.ofNat 16 ((s.i.toNat + (s.readV x).toNat) % 65536) :=
    BitVec.eq_of_toNat_eq (by simp [zextByte])
  have hglyph : glyphAddr (lowNibble (s.readV x)) = BitVec.ofNat 16 (5 * ((s.readV x).toNat % 16)) := by
    simp [glyphAddr, lowNibble]
  refine ⟨?_, ?_, by omega⟩
  · exact congrArg Host.Outcome.next ((advance_setI s _).trans (by rw [hadd]; rfl))
  · exact congrArg Host.Outcome.next ((advance_setI s _).trans (by rw [hglyph]; rfl))

/-! ### Stores and loads -/

/-- Settles O25: the three digits are the hundreds, tens and ones of the byte. -/
theorem storeBcd : Obligations.StoreBcd := by
  intro x s hi
  have hV : (s.v[x.toNat]).toNat < 256 := (s.v[x.toNat]).isLt
  have hbyte {n : Nat} (hn : n < 3) := read_writeBytes_inside s.mem s.i.toNat (bs := bcdDigits (s.readV x)) (n := n) (by simpa using hn)
  refine ⟨_, (exec_ldBVx_of_inMemory (by simp only [Config.memSize]; omega)).trans
      (congrArg Host.Outcome.next (advance_setMem s _)), ?_, fun a ha => ?_⟩
  · refine ⟨(s.v[x.toNat]).toNat / 100, (s.v[x.toNat]).toNat / 10 % 10, (s.v[x.toNat]).toNat % 10, by omega, by omega, by omega,
      by omega, hbyte (n := 0) (by decide), hbyte (n := 1) (by decide), hbyte (n := 2) (by decide)⟩
  · exact read_writeBytes_outside s.mem (by rw [length_bcdDigits]; omega)

/-- Settles O26. -/
theorem blockStore : Obligations.BlockStore := by
  intro x s hi
  refine ⟨_, (exec_ldMemVx_of_inMemory (by simp only [Config.memSize]; omega)).trans
      (congrArg Host.Outcome.next (advance_setMem s _)), fun j hj => read_stored_regBlock s s.mem s.i.toNat hj, fun a ha => ?_⟩
  exact read_writeBytes_outside s.mem (by rw [length_regBlock]; omega)

/-- Register `j` after a load of the block up to `x` from memory (R200). -/
theorem getElem_loaded (s : State) (x j : Nibble) :
    (loadBlock s x (Memory.readBytes s.mem s.i.toNat (x.toNat + 1)))[j.toNat]
      = if j.toNat ≤ x.toNat then Memory.read s.mem (s.i.toNat + j.toNat) else s.readV j := by
  rw [getElem_loadBlock]
  split
  · exact Memory.getD_readBytes s.mem s.i.toNat (x.toNat + 1) j.toNat (by omega)
  · rfl

/-- Settles O27. -/
theorem blockLoad : Obligations.BlockLoad := fun x s hi =>
  ⟨_, (exec_ldVxMem_of_inMemory (by simp only [Config.memSize]; omega)).trans
      (congrArg Host.Outcome.next (advance_setV s _)), getElem_loaded s x⟩

/-- Settles O28: the load reads the run that the store wrote. -/
theorem blockStoreLoadRoundTrip : Obligations.BlockStoreLoadRoundTrip := by
  intro x s t u hi hst hmem hindex
  obtain ⟨mem', hexec, hbytes, -⟩ := blockStore x s hi
  obtain rfl := Host.Outcome.next.inj (hexec.symm.trans hst)
  obtain ⟨v', hload, hv'⟩ := blockLoad x u (by rw [hindex]; exact hi)
  refine ⟨_, hload, fun j hj => ?_⟩
  rw [hv', if_pos hj, hmem, hindex]
  exact hbytes j hj

/-- Settles O31: the two bytes at the new pc are the first two of the stored block. -/
theorem storeSeenByNextFetch : Obligations.StoreSeenByNextFetch := by
  intro x s t hf hw hp hx hipc hi hst
  obtain ⟨mem', hexec, hbytes, -⟩ := blockStore x s hi
  obtain rfl := Host.Outcome.next.inj (hexec.symm.trans hst)
  have hpc : (s.pc + 2).toNat ≤ 0xFFE := by bv_omega
  have h0 := hbytes 0 (Nat.zero_le _)
  have h1 := hbytes 1 hx
  rw [hipc] at h0 h1
  rw [step_of_ready (s := { s with mem := mem', pc := s.pc + 2 }) hf hw hpc]
  exact congrArg (fun w => exec (decodeWord w) _) (congrArg₂ wordOfBytes h0 h1)

/-! ### The canonical form -/

theorem Machine.Memory.wfFrom_cons_iff {lo a : Nat} {b : Byte} {m : Memory} :
    Memory.wfFrom lo ((a, b) :: m) = true
      ↔ lo ≤ a ∧ a < Config.memSize ∧ b ≠ Memory.initial a ∧ Memory.wfFrom (a + 1) m = true := by
  simp [Memory.wfFrom, and_assoc]

/-- Below its first entry a memory reads as the reset contents. -/
theorem read_cons_of_lt {a k : Nat} (b : Byte) (m : Memory) (h : k < a) : Memory.read ((a, b) :: m) k = Memory.initial k := by
  rw [Memory.read, if_neg (by omega), if_pos h]

@[simp] theorem read_cons_self (a : Nat) (b : Byte) (m : Memory) : Memory.read ((a, b) :: m) a = b := by
  simp [Memory.read]

/-- Above its first entry a memory reads as the rest of its list. -/
theorem read_cons_of_gt {a k : Nat} (b : Byte) (m : Memory) (h : a < k) : Memory.read ((a, b) :: m) k = Memory.read m k := by
  rw [Memory.read, if_neg (by omega), if_neg (by omega)]

/-- A canonical memory does not read as the reset contents at its first entry. -/
theorem read_head_ne_initial {lo a : Nat} {b : Byte} {m : Memory} (hm : Memory.wfFrom lo ((a, b) :: m) = true) :
    Memory.read ((a, b) :: m) a ≠ Memory.initial a := by
  obtain ⟨-, -, hb, -⟩ := Memory.wfFrom_cons_iff.1 hm
  rwa [read_cons_self]

/-- A memory that reads as a canonical one has its first entry no higher. -/
theorem head_le_of_read_eq {lo a a' : Nat} {b b' : Byte} {m m' : Memory} (hm : Memory.wfFrom lo ((a, b) :: m) = true)
    (h : ∀ k, Memory.read ((a, b) :: m) k = Memory.read ((a', b') :: m') k) : a' ≤ a := by
  by_contra hlt
  exact read_head_ne_initial hm ((h a).trans (read_cons_of_lt b' m' (by omega)))

/-- Two canonical memories that read alike are the same list: their first entries are at one address and hold one byte, and the rests
read alike. -/
theorem eq_of_wfFrom_of_read_eq {m m' : Memory} {lo : Nat} (hm : Memory.wfFrom lo m = true) (hm' : Memory.wfFrom lo m' = true)
    (h : ∀ k, Memory.read m k = Memory.read m' k) : m = m' := by
  induction m generalizing m' lo with
  | nil =>
    cases m' with
    | nil => rfl
    | cons e m' => exact absurd (h e.1).symm (read_head_ne_initial hm')
  | cons e m ih =>
    cases m' with
    | nil => exact absurd (h e.1) (read_head_ne_initial hm)
    | cons e' m' =>
      obtain ⟨a, b⟩ := e
      obtain ⟨a', b'⟩ := e'
      obtain rfl : a = a' := le_antisymm (head_le_of_read_eq hm' fun k => (h k).symm) (head_le_of_read_eq hm h)
      obtain rfl : b = b' := by simpa using h a
      obtain ⟨-, -, -, hrest⟩ := Memory.wfFrom_cons_iff.1 hm
      obtain ⟨-, -, -, hrest'⟩ := Memory.wfFrom_cons_iff.1 hm'
      have htail : ∀ k, Memory.read m k = Memory.read m' k := by
        intro k
        by_cases hk : a < k
        · simpa only [read_cons_of_gt _ _ hk] using h k
        · rw [Memory.read_of_wfFrom_lt hrest (by omega), Memory.read_of_wfFrom_lt hrest' (by omega)]
      rw [ih hrest hrest' htail]

/-- Settles O32. -/
theorem canonicalMemoryIsUnique : Obligations.CanonicalMemoryIsUnique :=
  fun _ _ hm hm' h => eq_of_wfFrom_of_read_eq hm hm' h

/-! ### Loading an image -/

/-- The length of an image decides whether it loads (R256). -/
theorem loadImage_of_le {img : List Byte} (s : State) (h : img.length ≤ 3584) :
    s.loadImage img = .next (s.setMem (Memory.writeBytes s.mem Config.progBase img)) := if_pos h

theorem loadImage_of_gt {img : List Byte} (s : State) (h : 3584 < img.length) : s.loadImage img = .refused .imageTooLong :=
  if_neg (Nat.not_le.2 h)

/-- Settles O50: the image is one stored run. -/
theorem loadImageVerbatim : Obligations.LoadImageVerbatim := by
  intro s img
  refine ⟨fun hlen => ⟨_, loadImage_of_le s hlen, fun j hj => ?_, fun a ha => read_writeBytes_outside s.mem ha⟩,
    loadImage_of_gt s⟩
  exact (read_writeBytes_inside s.mem Config.progBase hj).trans (List.getD_eq_getElem _ _ hj)

end Sys2Proof
end

section
/-! Control flow (spec/41_control_flow.md section 1): O14, O15, O16. A run of calls and as many returns is one call, a shorter such run,
and one return, which takes the slot that the call wrote and the shorter run kept. -/

namespace Sys2Proof

open Machine

variable {s t : State}

/-- Below depth 15 SP counts up without a wrap (R30). -/
theorem toNat_sp_add_one (h : s.sp.toNat < 15) : (s.sp + 1).toNat = s.sp.toNat + 1 := by
  bv_omega

/-- CALL below depth 15 (R146). -/
theorem exec_call (addr : Addr) (h : s.sp.toNat < 15) : exec (.call addr) s = .next { s with
    sp := s.sp + 1, stack := s.stack.set (s.sp.toNat + 1) (s.pc + 2), pc := BitVec.ofNat 16 addr.toNat } := by
  rw [exec_call_of_room (by bv_omega), State.push_eq, zextAddr_eq_ofNat]
  simp only [toNat_sp_add_one h]; rfl

/-- Settles O14. -/
theorem callPushesReturnAddress : Obligations.CallPushesReturnAddress :=
  fun addr _ => ⟨exec_call addr, exec_call_of_full⟩

/-- Settles O15. -/
theorem returnPopsStack : Obligations.ReturnPopsStack :=
  fun _ => ⟨exec_ret_of_pending, exec_ret_of_empty⟩

/-! ### Nested calls -/

theorem execAll_cons {i : Instr} (is : List Instr) (h : exec i s = .next t) : execAll (i :: is) s = execAll is t := by
  rw [execAll, h]

theorem execAll_append {is : List Instr} (js : List Instr) (h : execAll is s = .next t) : execAll (is ++ js) s = execAll js t := by
  induction is generalizing s with
  | nil =>
    cases h
    rfl
  | cons i is ih =>
    obtain ⟨u, hu⟩ := exec_eq_next i s
    rw [execAll_cons is hu] at h
    rw [List.cons_append, execAll_cons _ hu, ih h]

/-- A call to each address, and as many returns. -/
def callsAndReturns (addrs : List Addr) : List Instr :=
  addrs.map Instr.call ++ List.replicate addrs.length Instr.ret

theorem callsAndReturns_cons (addr : Addr) (addrs : List Addr) :
    callsAndReturns (addr :: addrs) = .call addr :: (callsAndReturns addrs ++ [.ret]) := by
  simp [callsAndReturns, List.replicate_succ']

/-- The stack discipline: such a run changes the pc and slots above SP only. -/
theorem execAll_callsAndReturns (addrs : List Addr) (s : State) (h : s.sp.toNat + addrs.length ≤ 15) :
    ∃ stack', execAll (callsAndReturns addrs) s
        = .next { s with pc := if addrs = [] then s.pc else s.pc + 2, stack := stack' }
      ∧ ∀ j : Nibble, j.toNat ≤ s.sp.toNat → stack'[j.toNat] = s.stack[j.toNat] := by
  induction addrs generalizing s with
  | nil => exact ⟨s.stack, rfl, fun _ _ => rfl⟩
  | cons addr addrs ih =>
    simp only [List.length_cons] at h
    have hsp := toNat_sp_add_one (s := s) (by omega)
    obtain ⟨stack', hrun, hkeep⟩ := ih ((s.push (s.pc + 2)).setPc (zextAddr addr)) (by change (s.sp + 1).toNat + _ ≤ 15; omega)
    refine ⟨stack', ?_, fun j hj => ?_⟩
    · have hslot : stack'[(s.sp + 1).toNat] = s.pc + 2 := (hkeep (s.sp + 1) le_rfl).trans (Vector.getElem_set_self _)
      rw [callsAndReturns_cons, execAll_cons _ (exec_call_of_room (by bv_omega)), execAll_append _ hrun,
        execAll_cons _ (exec_ret_of_pending (by change s.sp + 1 ≠ 0; bv_omega)), if_neg (List.cons_ne_nil addr addrs)]
      exact congrArg₂ (fun pc sp => Host.Outcome.next { s with pc := pc, sp := sp, stack := stack' }) hslot (BitVec.add_sub_cancel s.sp 1)
    · exact (hkeep j (by change _ ≤ (s.sp + 1).toNat; omega)).trans
        (Vector.getElem_set_ne (s.sp + 1).isLt j.isLt (by omega))

/-- Settles O16. -/
theorem nestedCallsAndReturnsBalance : Obligations.NestedCallsAndReturnsBalance := by
  intro addrs s hne hlen
  obtain ⟨stack', hrun, hkeep⟩ := execAll_callsAndReturns addrs s hlen
  rw [if_neg hne] at hrun
  exact ⟨stack', hrun, hkeep⟩

end Sys2Proof
end

section
/-! Arithmetic with a flag, the random byte, key skips and timer copies (spec/42_alu.md sections 4 and 5, spec/45_keypad_timers.md
sections 1 and 2): O19 to O22, O36, O37. A flag writer's whole next state is said once, for any result and flag; each instruction then
names both as numbers. -/

namespace Sys2Proof

open Machine

variable (s : State) (x y : Nibble)

/-- The whole state after a result and a flag are written and the instruction falls through (R22, R26, R171). -/
theorem advance_writeResultFlag (r : Byte) (f : Bool) : (s.writeResultFlag x r f).advance
    = { s with v := (s.v.set x.toNat r).set 15 (flagByte f), pc := s.pc + 2 } := rfl

/-- The same with the result and the flag byte as the rules give them. -/
theorem next_writeResultFlag {r r' : Byte} {f : Bool} {c : Byte} (hr : r = r') (hf : flagByte f = c) :
    Host.Outcome.next (φ := Fault) (ρ := Refusal) (s.writeResultFlag x r f).advance
      = .next { s with v := (s.v.set x.toNat r').set 15 c, pc := s.pc + 2 } := by
  rw [advance_writeResultFlag, hr, hf]

theorem flagByte_decide (p : Prop) [Decidable p] : flagByte (decide p) = if p then 1 else 0 := by
  simp [flagByte]

/-- The 8-bit difference in unbounded integers (R174, R178). -/
theorem byte_sub_eq_ofNat (a b : Byte) :
    a - b = BitVec.ofNat 8 (if a.toNat ≥ b.toNat then a.toNat - b.toNat else a.toNat + 256 - b.toNat) := by
  split <;> bv_omega

/-- Settles O19. -/
theorem addSubSubnWithFlag : Obligations.AddSubSubnWithFlag := by
  rintro x y s _ _ rfl rfl
  exact ⟨next_writeResultFlag s x (byte_add_eq_ofNat_mod _ _) (flagByte_decide _),
    next_writeResultFlag s x (byte_sub_eq_ofNat _ _) (flagByte_decide _),
    next_writeResultFlag s x (byte_sub_eq_ofNat _ _) (flagByte_decide _)⟩

/-- The bit a right shift drops, as a number (R176). -/
theorem flagByte_lowBit (a : Byte) : flagByte (lowBit a) = BitVec.ofNat 8 (a.toNat % 2) := by
  have h : lowBit a = decide (a.toNat % 2 = 1) := by simp [lowBit, BitVec.getLsbD]
  rw [h, flagByte_decide]
  split <;> bv_omega

/-- The bit a left shift drops, as a number (R180). -/
theorem flagByte_highBit (a : Byte) : flagByte (highBit a) = BitVec.ofNat 8 (a.toNat / 128) := by
  have h : highBit a = decide (a.toNat / 128 % 2 = 1) := by
    simp [highBit, BitVec.getLsbD, Nat.testBit_eq_decide_div_mod_eq]
  rw [h, flagByte_decide]
  split <;> bv_omega

theorem byte_shiftRight_one (a : Byte) : a >>> 1 = BitVec.ofNat 8 (a.toNat / 2) :=
  BitVec.eq_of_toNat_eq (by simp [Nat.shiftRight_eq_div_pow]; omega)

theorem byte_shiftLeft_one (a : Byte) : a <<< 1 = BitVec.ofNat 8 (a.toNat * 2 % 256) :=
  BitVec.eq_of_toNat_eq (by simp [Nat.shiftLeft_eq])

/-- Settles O20. -/
theorem shiftsWithFlag : Obligations.ShiftsWithFlag := by
  rintro x s _ rfl
  exact ⟨next_writeResultFlag s x (byte_shiftRight_one _) (flagByte_lowBit _),
    next_writeResultFlag s x (byte_shiftLeft_one _) (flagByte_highBit _)⟩

/-- The six flag writers of R21 leave a flag byte in VF. -/
theorem readV_VF_writeRegs {i : Instr} (h : ∃ x y n, i = .addVxVy x y ∨ i = .subVxVy x y ∨ i = .subnVxVy x y ∨ i = .shrVx x
    ∨ i = .shlVx x ∨ i = .drwVxVyN x y n) : ∃ f, (writeRegs i s).readV 15 = flagByte f := by
  obtain ⟨x, y, n, rfl | rfl | rfl | rfl | rfl | rfl⟩ := h <;> exact ⟨_, State.readV_writeV_self _ 15 _⟩

/-- Settles O21. -/
theorem flagIsZeroOrOne : Obligations.FlagIsZeroOrOne := by
  intro i s t hi hf h
  obtain rfl := Host.Outcome.next.inj ((exec_of_noFault hf).symm.trans h)
  obtain ⟨f, hVF⟩ := readV_VF_writeRegs s hi
  rcases flagByte_cases f with h0 | h1
  · exact .inl (hVF.trans h0)
  · exact .inr (hVF.trans h1)

/-- Settles O22: the next state by evaluation; no bit is both in the immediate and outside it. -/
theorem randomAndImmediate : Obligations.RandomAndImmediate := by
  refine fun x b s => ⟨rfl, ?_⟩
  rw [BitVec.and_assoc, BitVec.and_not_self]
  exact BitVec.and_zero

/-- Settles O36: the key is that of the low nibble (R229). -/
theorem keySkips : Obligations.KeySkips := by
  intro x k s hk
  obtain rfl : k = lowNibble (s.readV x) := BitVec.eq_of_toNat_eq (hk.trans (by simp [lowNibble, State.readV]))
  exact ⟨exec_skpVx x s, exec_sknpVx x s⟩

/-- Settles O37: each instruction is one write that falls through. -/
theorem timerCopies : Obligations.TimerCopies := fun _ _ => ⟨rfl, rfl, rfl⟩

end Sys2Proof
end

section
/-! The host (spec/46_host_operations.md, spec/10_state.md sections 9 and 10): O47, O54, O55, O56. -/

namespace Sys2Proof

open Machine

/-! ### Reset and the outputs -/

/-- Settles O47: the reset values by evaluation, memory by what an unlisted address reads as. -/
theorem resetState : Obligations.ResetState := by
  refine ⟨by decide, rfl, rfl, rfl, rfl, rfl, fun _ _ => blank_getElem, rfl, fun a ha => ?_, fun a => Memory.initial_of_ge,
    rfl, rfl, rfl, fun _ => rfl⟩
  exact (Memory.initial_of_lt ha).trans (List.getD_eq_getElem _ _ ha)

/-- Settles O56: each output by its own definition. -/
theorem outputsShowState : Obligations.OutputsShowState := by
  intro s
  refine ⟨rfl, by simp [soundActive], by simp [awaitingKey, Option.isSome_iff_ne_none], ?_⟩
  unfold faultOutput
  cases s.fault <;> rfl

/-! ### The protocol -/

/-- Before the first Reset there is no move but Reset (R258). -/
theorem applyOp_off {op : Op} (s : State) (h : op ≠ .reset) : applyOp op ⟨.off, s⟩ = .refused .beforeReset := by
  cases op with
  | reset => exact absurd rfl h
  | _ => rfl

/-- After a Reset, Step, Tick and SetKey are always there (R258). -/
theorem applyOp_of_ne_off {p : Phase} (s : State) (h : p ≠ .off) :
    applyOp .step ⟨p, s⟩ = atPhase .running (step s) ∧ applyOp .tick ⟨p, s⟩ = .next ⟨p, s.tick⟩
      ∧ ∀ k b, applyOp (.setKey k b) ⟨p, s⟩ = .next ⟨p, s.setKey k b⟩ := by
  cases p with
  | off => exact absurd rfl h
  | _ => exact ⟨rfl, rfl, fun _ _ => rfl⟩

/-- Settles O55, move by move. -/
theorem hostProtocol : Obligations.HostProtocol := by
  refine ⟨fun _ => applyOp_off, fun _ => rfl, fun img s => ⟨fun hlen => ?_, fun hlen => ?_⟩, ?_, fun p s hp => ?_⟩
  · exact ⟨_, loadImage_of_le s hlen, congrArg (atPhase .loaded) (loadImage_of_le s hlen)⟩
  · exact congrArg (atPhase .loaded) (loadImage_of_gt s hlen)
  · rintro img p s (rfl | rfl) <;> rfl
  · obtain ⟨hstep, htick, hkey⟩ := applyOp_of_ne_off s hp
    obtain ⟨t, ht⟩ := step_eq_next s
    exact ⟨⟨t, ht, by rw [hstep, ht]; rfl⟩, htick, hkey⟩

/-! ### A faulted core -/

/-- A running session whose core is `s` but for the keys, the timers and the latch. -/
def FrozenAs (s : State) (z : Session) : Prop :=
  z.phase = .running
    ∧ ∃ keys dt st keyEvent, z.core = { s with keys := keys, dt := dt, st := st, keyEvent := keyEvent }

variable {s : State} {op : Op} {z z' : Session}

/-- Every move but Reset keeps what a faulted core keeps: no image loads after a Step, and a Step changes nothing (R121, R258). -/
theorem frozenAs_applyOp (hf : s.fault ≠ .none) (hop : op ≠ .reset) (h : FrozenAs s z) (ho : applyOp op z = .next z') :
    FrozenAs s z' := by
  obtain ⟨hp, keys, dt, st, keyEvent, hc⟩ := h
  have hhalt : step z.core = .next z.core := step_of_halted (by rw [hc]; exact hf)
  rcases applyOp_cases ho with ⟨rfl, -⟩ | ⟨img, -, hp', -⟩ | ⟨-, -, hp', hs⟩ | ⟨-, -, rfl⟩ | ⟨k, b, -, -, rfl⟩
  · exact absurd rfl hop
  · rw [hp] at hp'
    cases hp'
  · exact ⟨hp', keys, dt, st, keyEvent, (Host.Outcome.next.inj (hs.symm.trans hhalt)).trans hc⟩
  · exact ⟨hp, _, _, _, _, by rw [hc]; rfl⟩
  · exact ⟨hp, _, _, _, _, by rw [hc, setKey_eq]⟩

/-- Settles O54, by induction on the moves. -/
theorem faultStaysUntilReset : Obligations.FaultStaysUntilReset := by
  intro ops z z' hp hf hreset hr
  have hmove : ∀ op ∈ ops, ∀ y y', FrozenAs z.core y → applyOp op y = .next y' → FrozenAs z.core y' :=
    fun op hop y y' => frozenAs_applyOp hf fun h => hreset (h ▸ hop)
  obtain ⟨hp', keys, dt, st, keyEvent, hc⟩ := runOps_induction hmove ⟨hp, _, _, _, _, rfl⟩ hr
  exact ⟨hp', by rw [hc]⟩

end Sys2Proof
end

section
/-! Drawing (spec/44_display.md section 3): O34 and O35. Each bit of a sprite goes to a pixel of its own, so after any number of plotted
bits the display is the old one XOR the bits so far, and the flag says whether one of them met a pixel set before. That is `Drawn`; one
plotted bit keeps it, hence a row, hence a sprite. -/

namespace Sys2Proof

open Machine

/-! ### What plotted bits leave -/

/-- The canvas after some bits have been plotted on `fb`, at most one on each pixel: `mask` says which pixels got a set bit. -/
structure Drawn (fb : Framebuffer) (mask : Nat → Nat → Bool) (cv : Canvas) : Prop where
  pixel : ∀ r < 32, ∀ c < 64, cv.fb.pixel r c = (fb.pixel r c ^^ mask r c)
  hit : cv.hit = true ↔ ∃ r < 32, ∃ c < 64, fb.pixel r c = true ∧ mask r c = true

variable {fb : Framebuffer} {mask mask' : Nat → Nat → Bool} {cv : Canvas}

theorem Drawn.congr (h : Drawn fb mask cv) (hm : ∀ r < 32, ∀ c < 64, mask r c = mask' r c) : Drawn fb mask' cv := by
  refine ⟨fun r hr c hc => by rw [h.pixel r hr c hc, hm r hr c hc], h.hit.trans ?_⟩
  constructor <;> rintro ⟨r, hr, c, hc, hp, hb⟩
  · exact ⟨r, hr, c, hc, hp, hm r hr c hc ▸ hb⟩
  · exact ⟨r, hr, c, hc, hp, (hm r hr c hc).trans hb⟩

/-- Before the first bit nothing is changed. -/
theorem drawn_nothing (fb : Framebuffer) : Drawn fb (fun _ _ => false) ⟨fb, false⟩ :=
  ⟨by simp, by simp⟩

/-- A pixel is that of the coordinates reduced to the display (R34). -/
theorem pixel_eq_pixel_mod (fb : Framebuffer) (r c : Nat) : fb.pixel r c = fb.pixel (r % 32) (c % 64) := by
  simp [Framebuffer.pixel]

/-- One more bit, on a pixel that had none. -/
theorem Drawn.plotBit (h : Drawn fb mask cv) {r c : Nat} (bit : Bool) (hfree : mask (r % 32) (c % 64) = false) :
    Drawn fb (fun r' c' => mask r' c' || (decide (r' = r % 32 ∧ c' = c % 64) && bit)) (plotBit cv r c bit) := by
  have hr : r % 32 < 32 := Nat.mod_lt _ (by decide)
  have hc : c % 64 < 64 := Nat.mod_lt _ (by decide)
  constructor
  · intro r' hr' c' hc'
    rw [plotBit_pixel, h.pixel r' hr' c' hc', Nat.mod_eq_of_lt hr', Nat.mod_eq_of_lt hc']
    by_cases heq : r' = r % 32 ∧ c' = c % 64
    · obtain ⟨rfl, rfl⟩ := heq
      simp [hfree]
    · simp [heq]
  · have hold : cv.fb.pixel r c = fb.pixel (r % 32) (c % 64) := by
      rw [pixel_eq_pixel_mod, h.pixel _ hr _ hc, hfree, Bool.xor_false]
    rw [plotBit_hit, Bool.or_eq_true, h.hit, Bool.and_eq_true, hold]
    constructor
    · rintro (⟨r', hr', c', hc', hp, hb⟩ | ⟨hp, hb⟩)
      · exact ⟨r', hr', c', hc', hp, by simp [hb]⟩
      · exact ⟨_, hr, _, hc, hp, by simp [hb]⟩
    · rintro ⟨r', hr', c', hc', hp, hb⟩
      rcases Bool.or_eq_true_iff.1 hb with hb | hb
      · exact .inl ⟨r', hr', c', hc', hp, hb⟩
      · obtain ⟨hat, hbit⟩ := Bool.and_eq_true_iff.1 hb
        obtain ⟨rfl, rfl⟩ := of_decide_eq_true hat
        exact .inr ⟨hp, hbit⟩

/-! ### Rows and columns of a sprite, each wrapping on its own (R214) -/

/-- The sprite's row that falls on display row `r` when row 0 falls on `vy`. -/
def rowOffset (vy r : Nat) : Nat := (r + 32 - vy % 32) % 32

/-- The sprite's column that falls on display column `c` when column 0 falls on `vx`. -/
def colOffset (vx c : Nat) : Nat := (c + 64 - vx % 64) % 64

theorem rowOffset_eq_iff {vy r i : Nat} (hr : r < 32) (hi : i < 32) : rowOffset vy r = i ↔ r = (vy + i) % 32 := by
  unfold rowOffset
  omega

theorem colOffset_eq_iff {vx c j : Nat} (hc : c < 64) (hj : j < 64) : colOffset vx c = j ↔ c = (vx + j) % 64 := by
  unfold colOffset
  omega

theorem spriteBit_eq (bs : List Byte) (vx vy r c : Nat) :
    spriteBit bs vx vy r c = (decide (rowOffset vy r < bs.length) && decide (colOffset vx c < 8)
      && (bs.getD (rowOffset vy r) 0).getLsbD (7 - colOffset vx c)) := rfl

/-- The mask of the rows `bs` and of the first `n` bits of the row `byte` after them. -/
def partialMask (bs : List Byte) (byte : Byte) (n vx vy r c : Nat) : Bool :=
  spriteBit bs vx vy r c
    || (decide (rowOffset vy r = bs.length ∧ colOffset vx c < n) && byte.getLsbD (7 - colOffset vx c))

theorem partialMask_zero (bs : List Byte) (byte : Byte) (vx vy r c : Nat) :
    partialMask bs byte 0 vx vy r c = spriteBit bs vx vy r c := by
  simp [partialMask]

/-- All eight bits of a row are the row. -/
theorem partialMask_eight (bs : List Byte) (byte : Byte) (vx vy r c : Nat) :
    partialMask bs byte 8 vx vy r c = spriteBit (bs ++ [byte]) vx vy r c := by
  simp only [partialMask, spriteBit_eq, List.length_append, List.length_singleton]
  rcases Nat.lt_trichotomy (rowOffset vy r) bs.length with h | h | h
  · simp [h, h.ne, show rowOffset vy r < bs.length + 1 by omega]
  · simp [h]
  · simp [h.ne', show ¬ rowOffset vy r < bs.length by omega, show ¬ rowOffset vy r < bs.length + 1 by omega]

variable {bs : List Byte} {byte : Byte} {vx vy n : Nat}

/-- The next bit of a row goes to a pixel that has none yet. -/
theorem Drawn.plotBit_partialMask (h : Drawn fb (partialMask bs byte n vx vy) cv) (hn : n < 8) (hlen : bs.length < 32) :
    Drawn fb (partialMask bs byte (n + 1) vx vy) (Machine.plotBit cv (vy + bs.length) (vx + n) (byte.getLsbD (7 - n))) := by
  have hfree : partialMask bs byte n vx vy ((vy + bs.length) % 32) ((vx + n) % 64) = false := by
    have hr := (rowOffset_eq_iff (vy := vy) (Nat.mod_lt _ (by decide)) hlen).2 rfl
    have hc := (colOffset_eq_iff (vx := vx) (Nat.mod_lt _ (by decide)) (show n < 64 by omega)).2 rfl
    simp [partialMask, spriteBit_eq, hr, hc]
  refine (h.plotBit _ hfree).congr fun r hr c hc => ?_
  simp only [← rowOffset_eq_iff hr hlen, ← colOffset_eq_iff hc (show n < 64 by omega), partialMask, Bool.or_assoc]
  congr 1
  by_cases hrow : rowOffset vy r = bs.length
  · rcases Nat.lt_trichotomy (colOffset vx c) n with hcol | hcol | hcol
    · simp [hrow, hcol, hcol.ne, show colOffset vx c < n + 1 by omega]
    · simp [hrow, hcol]
    · simp [hrow, hcol.ne', show ¬ colOffset vx c < n by omega, show ¬ colOffset vx c < n + 1 by omega]
  · simp [hrow]

/-- The first `n` bits of a row. -/
theorem Drawn.plotBits (h : Drawn fb (spriteBit bs vx vy) cv) (hlen : bs.length < 32) (hn : n ≤ 8) :
    Drawn fb (partialMask bs byte n vx vy)
      ((List.range n).foldl (fun cv c => Machine.plotBit cv (vy + bs.length) (vx + c) (byte.getLsbD (7 - c))) cv) := by
  induction n with
  | zero => exact h.congr fun r _ c _ => (partialMask_zero bs byte vx vy r c).symm
  | succ n ih =>
    rw [List.range_succ, List.foldl_append]
    exact (ih (by omega)).plotBit_partialMask (by omega) hlen

theorem Drawn.plotRow (h : Drawn fb (spriteBit bs vx vy) cv) (hlen : bs.length < 32) (byte : Byte) :
    Drawn fb (spriteBit (bs ++ [byte]) vx vy) (Machine.plotRow cv vx (vy + bs.length) byte) :=
  (h.plotBits hlen le_rfl).congr fun r _ c _ => partialMask_eight bs byte vx vy r c

/-- The rows that are left, after those in `bs`. -/
theorem Drawn.plotSprite {rest : List Byte} (h : Drawn fb (spriteBit bs vx vy) cv) (hlen : bs.length + rest.length ≤ 32) :
    Drawn fb (spriteBit (bs ++ rest) vx vy) (Machine.plotSprite cv vx (vy + bs.length) rest) := by
  induction rest generalizing bs cv with
  | nil => simpa [Machine.plotSprite] using h
  | cons byte rest ih =>
    simp only [List.length_cons] at hlen
    have hrow := h.plotRow (by omega) byte
    simpa [Machine.plotSprite, Nat.add_assoc] using ih hrow (by simp; omega)

/-! ### DRW -/

/-- The set bits of a sprite of `n` rows at I, drawn at Vx, Vy. -/
def Machine.State.spriteMask (s : State) (x y n : Nibble) (r c : Nat) : Bool :=
  spriteBit (Memory.readBytes s.mem s.i.toNat n.toNat) (s.readV x).toNat (s.readV y).toNat r c

variable {s : State} {x y k : Nibble}

theorem drawn_spec (s : State) (x y n : Nibble) : Drawn s.fb (s.spriteMask x y n) (s.drawn x y n) := by
  have hn := n.isLt
  have hstart : Drawn s.fb (spriteBit [] (s.readV x).toNat (s.readV y).toNat) ⟨s.fb, false⟩ :=
    (drawn_nothing s.fb).congr fun _ _ _ _ => by simp [spriteBit_eq]
  exact hstart.plotSprite (by simp; omega)

/-- DRW where it does not fault (R212). -/
theorem exec_drw (x y n : Nibble) (h : n = 0 ∨ s.i.toNat + n.toNat ≤ 0x1000) : exec (.drwVxVyN x y n) s = .next { s with
    fb := (s.drawn x y n).fb, v := s.v.set 15 (flagByte (s.drawn x y n).hit), pc := s.pc + 2 } :=
  exec_drw_of_inMemory (h.imp_left (congrArg BitVec.toNat))

/-- Settles O34: the canvas that the sprite's bits leave. -/
theorem drawSprite : Obligations.DrawSprite := by
  intro x y n s h
  have hd := drawn_spec s x y n
  refine ⟨(s.drawn x y n).fb, fun r c hr hc => ?_, fun hit hhit => ?_⟩
  · rw [← Framebuffer.pixel_of_lt _ hr hc, ← Framebuffer.pixel_of_lt _ hr hc]
    exact hd.pixel r hr c hc
  · have heq : hit = (s.drawn x y n).hit := by
      rw [Bool.eq_iff_iff, hhit, hd.hit]
      constructor
      · rintro ⟨r, c, hr, hc, hp, hb⟩
        exact ⟨r, hr, c, hc, (Framebuffer.pixel_of_lt _ hr hc).trans hp, hb⟩
      · rintro ⟨r, hr, c, hc, hp, hb⟩
        exact ⟨r, c, hr, hc, (Framebuffer.pixel_of_lt _ hr hc).symm.trans hp, hb⟩
    rw [heq]
    exact exec_drw x y n h

/-! ### Drawing twice -/

/-- A byte that is not 0 has a set bit among its eight. -/
theorem exists_getLsbD_of_ne_zero {b : Byte} (h : b ≠ 0) : ∃ j < 8, b.getLsbD (7 - j) = true := by
  by_contra hno
  refine h (BitVec.eq_of_getLsbD_eq fun k hk => ?_)
  have hk' : b.getLsbD (7 - (7 - k)) ≠ true := fun hb => hno ⟨7 - k, by omega, hb⟩
  rw [show 7 - (7 - k) = k by omega] at hk'
  exact (Bool.eq_false_iff.2 hk').trans BitVec.getLsbD_zero.symm

/-- A sprite of at most 32 rows puts a set bit on some pixel exactly when one of its bytes is not 0. -/
theorem exists_spriteBit_iff (hlen : bs.length ≤ 32) :
    (∃ r < 32, ∃ c < 64, spriteBit bs vx vy r c = true) ↔ ∃ b ∈ bs, b ≠ 0 := by
  constructor
  · rintro ⟨r, -, c, -, hb⟩
    simp only [spriteBit_eq, Bool.and_eq_true, decide_eq_true_eq] at hb
    obtain ⟨⟨hrow, -⟩, hbit⟩ := hb
    rw [List.getD_eq_getElem _ _ hrow] at hbit
    exact ⟨_, List.getElem_mem hrow, fun h0 => by simp [h0] at hbit⟩
  · rintro ⟨b, hmem, hne⟩
    obtain ⟨i, hi, rfl⟩ := List.getElem_of_mem hmem
    obtain ⟨j, hj, hbit⟩ := exists_getLsbD_of_ne_zero hne
    refine ⟨(vy + i) % 32, Nat.mod_lt _ (by decide), (vx + j) % 64, Nat.mod_lt _ (by decide), ?_⟩
    have hr := (rowOffset_eq_iff (vy := vy) (Nat.mod_lt _ (by decide)) (show i < 32 by omega)).2 rfl
    have hc := (colOffset_eq_iff (vx := vx) (Nat.mod_lt _ (by decide)) (show j < 64 by omega)).2 rfl
    simp [spriteBit_eq, hr, hc, hi, hj, hbit]

/-- Drawing with one mask twice restores the display. -/
theorem Drawn.twice_fb {cv' : Canvas} (h : Drawn fb mask cv) (h' : Drawn cv.fb mask cv') : cv'.fb = fb := by
  refine Framebuffer.ext_pixel fun r c => ?_
  have hr : r % 32 < 32 := Nat.mod_lt _ (by decide)
  have hc : c % 64 < 64 := Nat.mod_lt _ (by decide)
  rw [pixel_eq_pixel_mod, pixel_eq_pixel_mod fb, h'.pixel _ hr _ hc, h.pixel _ hr _ hc, Bool.xor_assoc, Bool.xor_self, Bool.xor_false]

/-- From a blank display the second draw finds set what the first has set. -/
theorem Drawn.twice_hit {cv' : Canvas} (h : Drawn Framebuffer.blank mask cv) (h' : Drawn cv.fb mask cv') :
    cv'.hit = true ↔ ∃ r < 32, ∃ c < 64, mask r c = true := by
  have hset : ∀ r < 32, ∀ c < 64, cv.fb.pixel r c = mask r c := by
    intro r hr c hc
    rw [h.pixel r hr c hc, Framebuffer.pixel_of_lt _ hr hc, blank_getElem hr hc, Bool.false_xor]
  rw [h'.hit]
  constructor
  · rintro ⟨r, hr, c, hc, -, hb⟩
    exact ⟨r, hr, c, hc, hb⟩
  · rintro ⟨r, hr, c, hc, hb⟩
    exact ⟨r, hr, c, hc, (hset r hr c hc).trans hb, hb⟩

theorem flagByte_eq_one_iff (f : Bool) : flagByte f = 1 ↔ f = true := by
  cases f <;> decide

theorem spriteMask_congr {t : State} (n : Nibble) (hi : t.i = s.i) (hmem : t.mem = s.mem) (hx : t.readV x = s.readV x)
    (hy : t.readV y = s.readV y) : t.spriteMask x y n = s.spriteMask x y n := by
  unfold State.spriteMask
  rw [hi, hmem, hx, hy]

/-- Settles O35: the first draw leaves I, memory and the coordinates, so the second has the same mask. -/
theorem drawTwiceRestores : Obligations.DrawTwiceRestores := by
  intro x y n s t u h hx hy ht hu
  obtain ⟨hfb, hi, hmem, htx, hty⟩ : t.fb = (s.drawn x y n).fb ∧ t.i = s.i ∧ t.mem = s.mem ∧ t.readV x = s.readV x
      ∧ t.readV y = s.readV y := by
    obtain rfl := Host.Outcome.next.inj ((exec_drw x y n h).symm.trans ht)
    exact ⟨rfl, rfl, rfl, readV_writeV_of_ne hx, readV_writeV_of_ne hy⟩
  change exec _ (t.setPc s.pc) = _ at hu
  have hfirst := drawn_spec s x y n
  have hsecond := drawn_spec (t.setPc s.pc) x y n
  rw [spriteMask_congr (t := t.setPc s.pc) n hi hmem htx hty, State.setPc_fb, hfb] at hsecond
  obtain rfl := Host.Outcome.next.inj ((exec_drw x y n (by rwa [State.setPc_i, hi])).symm.trans hu)
  refine ⟨hfirst.twice_fb hsecond, fun hblank => ?_⟩
  rw [hblank] at hfirst
  calc (t.v.set 15 (flagByte ((t.setPc s.pc).drawn x y n).hit))[15] = 1
      ↔ ((t.setPc s.pc).drawn x y n).hit = true := by rw [Vector.getElem_set_self, flagByte_eq_one_iff]
    _ ↔ ∃ r < 32, ∃ c < 64, s.spriteMask x y n r c = true := Drawn.twice_hit hfirst hsecond
    _ ↔ ∃ b ∈ Memory.readBytes s.mem s.i.toNat n.toNat, b ≠ 0 :=
      exists_spriteBit_iff (by have := n.isLt; rw [Memory.length_readBytes]; omega)

end Sys2Proof
end
